-- ==== Sys2Proof/Word.lean ====
section
/-! DEFINITION. The plain types of the front-panel I/O core: bytes, the raw count, buffer indices,
frame-store offsets and grid lines (spec: 00_scope.md R4 to R7, 10_state.md R11 to R34). Instants and
durations are rational numbers of nanoseconds (R7 `now`, R197; log 4). -/

namespace Sys2Proof

/-- A byte: the addressable unit of the frame store and of the serial buses (R40, R17). -/
abbrev Byte := BitVec 8

/-- The raw encoder count and the detent counts: 32 bits, two's complement (R23, R34). -/
abbrev Count := BitVec 32

/-- A frame-buffer index, `0..2` (R4 `NBUF`, R31). -/
abbrev Buf := Fin 3

/-- A byte offset in one buffer, `0..1055` (R4 `FB_BYTES`, R40): an offset beyond the store cannot
be formed (R44). -/
abbrev Offset := Fin 1056

/-- The grid-line index `g`, `1..43` (R12). The values 0 and 44..63 of its 6 bits are
unrepresentable, as 93 U14 allows. -/
abbrev GridLine := { n : Nat // 1 ≤ n ∧ n ≤ 43 }

/-- A subset of `{0,1,2}` (R18, R20), as one membership flag per index. -/
abbrev BufSet := Vector Bool 3

/-- An instant, in nanoseconds since reset release, or a duration in nanoseconds (R7 `now`, R197). The
spec's are real numbers, which are no plain data; any fraction of a nanosecond is one of these
(DESIGN CHOICE, log 4). That no instant
of a run is negative is an invariant (`State.StampsHavePassed`). -/
abbrev Time := Rat

/-- A level of a one-bit line or flag: `true` is 1 (high), `false` is 0 (low). -/
abbrev Level := Bool

end Sys2Proof
end

