-- ==== Sys2Proof/Config.lean ====
section
/-! DEFINITION. What one implementation fixes (00_scope.md R4, R5). A parameter the spec leaves open
without a default is an opaque constant: nothing in Lean can evaluate it, so a claim holds for every
value of it (log 5, 6, 7, 10). -/

namespace Sys2Proof.Config

/-- `T_WINDOW`: the blanking window, 5 µs, in ns (R4). -/
def tWindow : Time := 5000

/-- `T_CTRL`: separation of control-line events, 100 ns (R4). -/
def tCtrl : Time := 100

/-- `T_BTN`: the button timer's interval, nominal 5 ms (R4, D22; DESIGN CHOICE, log 8). -/
def tBtn : Time := 5000000

/-- `ENC_PREV_RESET`: its default `0b00` (R5, D16; log 9). -/
def encPrevReset : BitVec 2 := 0b00#2

/-- `PERM`: position, within a 6-bit row, of each pixel of a column group (R4, R57). -/
def perm : Vector (Fin 6) 6 := #v[0, 2, 4, 5, 3, 1]

/-- `PATTERN_A`, OPEN (R5, D6; log 5). -/
opaque patternA : Byte

/-- `PATTERN_B`, OPEN (R5, D6; log 5). -/
opaque patternB : Byte

/-- `PATTERN_C[0..15]`, OPEN (R5, D7; log 5). -/
opaque patternC : Fin 16 → Byte

/-- One less than the numerator of `ENC_SETTLE` in ns, OPEN (R5, D18; log 6). -/
opaque encSettleNum : Nat

/-- One less than the denominator of `ENC_SETTLE` in ns, OPEN (R5, D18; log 6). -/
opaque encSettleDen : Nat

/-- `ENC_SETTLE`: a positive duration, otherwise unknown (R5, D18; log 6). Every positive fraction is
the value for some pair of the two constants. -/
def encSettle : Time := ((encSettleNum : Time) + 1) / ((encSettleDen : Time) + 1)

/-- `BUTTON_MAP`, OPEN: the bijection from slots `0..3` to the logical buttons, numbered 0, 1, 2 for
the panel buttons and 3 for the encoder push-button (R5, D23; log 7). -/
opaque buttonMap : Equiv.Perm (Fin 4)

/-- Contents of the frame store at reset, per byte: a FREE VALUE (R31, D29, 93 U1; log 10). The
argument is the buffer and the offset. -/
opaque fsReset : Buf → Offset → Byte

end Sys2Proof.Config
end

