-- ==== Sys2Proof/Syntax.lean ====
section
/-! DEFINITION. The operations of the core as data: one constructor per row of
spec/opcode_table.json, with the operands of 30_encoding.md R74. The sampled row levels of
`BTN.SCAN` and the choice of `SC.ACQUIRE` are operands too: they are draws of the step (R7, R37). -/

namespace Sys2Proof

/-- The five agents that take steps (00_scope.md R8). -/
inductive Agent where
  | scan | enc | btn | host | env
  deriving DecidableEq, Repr

/-- An operation with its operands. `h` is the number of a handle the host holds (log 14); `x`, `y`
are coordinates; `c` is a colour, `true` = lit (20_memory.md R42). -/
inductive Instr where
  /- Display scanner, agent SCAN (R100 to R113) -/
  | scanRefresh
  | scanRelease
  | scanPixA
  | scanPixB
  | scanPixC
  | scanGrid
  | scanFlush
  | scanWaitwin
  | scanBlankOn
  | scanLatchLo
  | scanLatchHi
  | scanBlankOff
  | scanArm
  | scanAdv
  /- Swap-chain operations the scanner executes inside SCAN.REFRESH and SCAN.RELEASE (R93, R94) -/
  | scCollect
  | scRelease (i : Buf)
  /- Serial buses, agent ENV (R114, R115) -/
  | busDeliverPix
  | busDeliverGrid
  | busDropPix
  | busDropGrid
  /- Encoder transitions, agent ENC: previous state, sampled state (R67, R122 to R125) -/
  | encTHold0000
  | encTInc0001
  | encTDec0010
  | encTRej0011
  | encTDec0100
  | encTHold0101
  | encTRej0110
  | encTInc0111
  | encTInc1000
  | encTRej1001
  | encTHold1010
  | encTDec1011
  | encTRej1100
  | encTDec1101
  | encTInc1110
  | encTHold1111
  | encEnter
  | encExit
  /- Encoder edges, agent ENV (R120) -/
  | encEdgeAFall
  | encEdgeARise
  | encEdgeBFall
  | encEdgeBRise
  /- Button capture: agent BTN, then ENV (R136, R135) -/
  | btnScanCol0 (r0 r1 : Level)
  | btnScanCol1 (r0 r1 : Level)
  | btnFire
  /- Frame store, agent HOST (R80 to R84) -/
  | fbSet (h : Nat) (x y : Int) (c : Bool)
  | fbGet (h : Nat) (x y : Int)
  | fbClear (h : Nat) (c : Bool)
  | fbSetRaw (h : Nat) (x y : Int) (c : Bool)
  | fbGetRaw (h : Nat) (x y : Int)
  /- Swap chain, agent HOST (R90 to R92); `pick` is the draw FREE_PICK (log 11) -/
  | scAcquire (pick : Buf)
  | scPresent (h : Nat)
  | scDrop (h : Nat)
  /- Input aggregator, agent HOST (R145 to R147) -/
  | aggUpdate
  | aggEnc
  | aggBtn
  deriving DecidableEq, Repr

/-- The agent that executes an operation (30_encoding.md R71). -/
def Instr.agent : Instr → Agent
  | .scanRefresh | .scanRelease | .scanPixA | .scanPixB | .scanPixC | .scanGrid | .scanFlush
  | .scanWaitwin | .scanBlankOn | .scanLatchLo | .scanLatchHi | .scanBlankOff | .scanArm
  | .scanAdv | .scCollect | .scRelease _ => .scan
  | .busDeliverPix | .busDeliverGrid | .busDropPix | .busDropGrid => .env
  | .encTHold0000 | .encTInc0001 | .encTDec0010 | .encTRej0011 | .encTDec0100 | .encTHold0101
  | .encTRej0110 | .encTInc0111 | .encTInc1000 | .encTRej1001 | .encTHold1010 | .encTDec1011
  | .encTRej1100 | .encTDec1101 | .encTInc1110 | .encTHold1111 | .encEnter | .encExit => .enc
  | .encEdgeAFall | .encEdgeARise | .encEdgeBFall | .encEdgeBRise => .env
  | .btnScanCol0 _ _ | .btnScanCol1 _ _ => .btn
  | .btnFire => .env
  | .fbSet _ _ _ _ | .fbGet _ _ _ | .fbClear _ _ | .fbSetRaw _ _ _ _ | .fbGetRaw _ _ _
  | .scAcquire _ | .scPresent _ | .scDrop _ | .aggUpdate | .aggEnc | .aggBtn => .host

/-- The two swap-chain operations that the scanner executes only as the bodies of `SCAN.REFRESH` and
`SCAN.RELEASE` (41_swap_chain.md, header; spec/opcode_table.json `executed_inside`; log 16). -/
def Instr.isBody : Instr → Bool
  | .scCollect | .scRelease _ => true
  | _ => false

end Sys2Proof
end

