-- ==== Sys2Proof/WellFormed.lean ====
section
/-! DEFINITION. Which operations have the operands their rules ask for. `FB.SET_RAW` and `FB.GET_RAW`
take `x` in `0..131` and `y` in `0..63` (40_frame_store_ops.md R82, R83); `FB.SET` and `FB.GET` take
"any integers" (R80, R81); a handle may have any number (log 14); buffer indices, levels and colours
are well formed by their types. An operation that is not well formed can be written, decoded and
taken all the same: its meaning says what then happens (log 1, 15). -/

namespace Sys2Proof

/-- `x` is a raw column, `0..131` (R82). -/
def rawXFits (x : Int) : Bool := 0 ≤ x && x < 132

/-- `y` is a row, `0..63` (R82). -/
def rawYFits (y : Int) : Bool := 0 ≤ y && y < 64

/-- The operation has the operands its rule asks for. -/
def Instr.wf : Instr → Bool
  | .scanRefresh | .scanRelease | .scanPixA | .scanPixB | .scanPixC | .scanGrid | .scanFlush
  | .scanWaitwin | .scanBlankOn | .scanLatchLo | .scanLatchHi | .scanBlankOff | .scanArm
  | .scanAdv | .scCollect | .scRelease _
  | .busDeliverPix | .busDeliverGrid | .busDropPix | .busDropGrid
  | .encTHold0000 | .encTInc0001 | .encTDec0010 | .encTRej0011 | .encTDec0100 | .encTHold0101
  | .encTRej0110 | .encTInc0111 | .encTInc1000 | .encTRej1001 | .encTHold1010 | .encTDec1011
  | .encTRej1100 | .encTDec1101 | .encTInc1110 | .encTHold1111 | .encEnter | .encExit
  | .encEdgeAFall | .encEdgeARise | .encEdgeBFall | .encEdgeBRise
  | .btnScanCol0 _ _ | .btnScanCol1 _ _ | .btnFire
  | .fbSet _ _ _ _ | .fbGet _ _ _ | .fbClear _ _
  | .scAcquire _ | .scPresent _ | .scDrop _ | .aggUpdate | .aggEnc | .aggBtn => true
  | .fbSetRaw _ x y _ => rawXFits x && rawYFits y
  | .fbGetRaw _ x y => rawXFits x && rawYFits y

end Sys2Proof
end

