-- ==== Sys2Proof/Decode.lean ====
section
/-! DEFINITION. The operation word and its operands: a decoder from bytes to operations, total and
rejecting by name, and the encoder. The first byte is the OPW of 30_encoding.md R70, R71; the bytes
behind it carry the operands in the model's own layout (log 1), which can write down every operation:
a handle number as groups of 7 bits, the low group first, with bit 7 set in every byte but the last;
a coordinate as the number that is twice it, or, where it is negative, twice its complement plus one;
a level or a colour in one byte, 0 or 1; a buffer index in one byte, 0 to 2. -/

namespace Sys2Proof

/-- Why a list of bytes is not an operation. -/
inductive DecodeError where
  /-- No byte, or too few bytes for the operands. -/
  | truncated
  /-- The first byte is no OPW of R71: "not operations; a decoder rejects them" (R73, 93 U16). -/
  | unassignedOpw (opw : Byte)
  /-- A level or colour byte that is neither 0 nor 1 (log 1). -/
  | badFlag (b : Byte)
  /-- A number with a last group of zeros that its other bytes do not need (log 1). -/
  | badNumber (b : Byte)
  /-- A buffer-index byte above 2 (log 1; R44 "cannot be formed"). -/
  | badBuffer (b : Byte)
  deriving DecidableEq, Repr

/-- The result of a decoding function: a value and the bytes behind it, or the reason there is none. -/
abbrev Decoded (α : Type) := Except DecodeError (α × List Byte)

/-- Passes an operand that was read, and the bytes behind it, to what follows. -/
def withOperand {α β : Type} (r : Decoded α) (k : α → List Byte → Decoded β) : Decoded β :=
  match r with
  | .ok (a, rest) => k a rest
  | .error e => .error e

/-- Reads a number, of any size: each number has one spelling. -/
def takeNat : List Byte → Decoded Nat
  | [] => .error .truncated
  | b :: bs =>
    if b.toNat < 128 then .ok (b.toNat, bs)
    else withOperand (takeNat bs) fun high rest =>
      if high = 0 then .error (.badNumber b) else .ok (b.toNat - 128 + 128 * high, rest)

/-- The integer a number stands for: the even numbers are 0, 1, 2, …, the odd ones -1, -2, -3, …. -/
def intOfCode (n : Nat) : Int := if n % 2 = 0 then Int.ofNat (n / 2) else Int.negSucc (n / 2)

/-- The number that stands for an integer. -/
def codeOfInt : Int → Nat
  | .ofNat n => 2 * n
  | .negSucc n => 2 * n + 1

/-- Reads a handle number. -/
def takeHandle (bs : List Byte) : Decoded Nat := takeNat bs

/-- Reads a coordinate. -/
def takeCoord (bs : List Byte) : Decoded Int :=
  withOperand (takeNat bs) fun n rest => .ok (intOfCode n, rest)

/-- Reads a level or a colour. -/
def takeFlag : List Byte → Decoded Bool
  | b :: rest => if b = 0#8 then .ok (false, rest) else if b = 1#8 then .ok (true, rest) else .error (.badFlag b)
  | [] => .error .truncated

/-- Reads a buffer index. -/
def takeBuf : List Byte → Decoded Buf
  | b :: rest => if h : b.toNat < 3 then .ok (⟨b.toNat, h⟩, rest) else .error (.badBuffer b)
  | [] => .error .truncated

/-- Writes a number in at most `fuel + 1` bytes; `n` is fuel enough for `n`. -/
def putNatFuel : Nat → Nat → List Byte
  | 0, n => [BitVec.ofNat 8 n]
  | fuel + 1, n =>
    if n < 128 then [BitVec.ofNat 8 n] else BitVec.ofNat 8 (n % 128 + 128) :: putNatFuel fuel (n / 128)

/-- Writes a number, of any size. -/
def putNat (n : Nat) : List Byte := putNatFuel n n

/-- Writes a handle number. -/
def putHandle (h : Nat) : List Byte := putNat h

/-- Writes a coordinate. -/
def putCoord (x : Int) : List Byte := putNat (codeOfInt x)

/-- Writes a level or a colour. -/
def putFlag (c : Bool) : List Byte := [if c then 1#8 else 0#8]

/-- Writes a buffer index. -/
def putBuf (i : Buf) : List Byte := [BitVec.ofNat 8 i.val]

/-- The operation whose OPW is `opw`, its operands read from `rest` (R71; OPW as in
spec/opcode_table.json). -/
def decodeOp (opw : Byte) (rest : List Byte) : Decoded Instr :=
  match opw.toNat with
  | 0x00 => .ok (.scanRefresh, rest)
  | 0x01 => .ok (.scanRelease, rest)
  | 0x02 => .ok (.scanPixA, rest)
  | 0x12 => .ok (.scanPixB, rest)
  | 0x22 => .ok (.scanPixC, rest)
  | 0x03 => .ok (.scanGrid, rest)
  | 0x04 => .ok (.scanFlush, rest)
  | 0x05 => .ok (.scanWaitwin, rest)
  | 0x06 => .ok (.scanBlankOn, rest)
  | 0x07 => .ok (.scanLatchLo, rest)
  | 0x08 => .ok (.scanLatchHi, rest)
  | 0x09 => .ok (.scanBlankOff, rest)
  | 0x0A => .ok (.scanArm, rest)
  | 0x0B => .ok (.scanAdv, rest)
  | 0x30 => .ok (.scCollect, rest)
  | 0x31 =>
    withOperand (takeBuf rest) fun i tail1 =>
    .ok (.scRelease i, tail1)
  | 0x34 => .ok (.busDeliverPix, rest)
  | 0x35 => .ok (.busDeliverGrid, rest)
  | 0x36 => .ok (.busDropPix, rest)
  | 0x37 => .ok (.busDropGrid, rest)
  | 0x40 => .ok (.encTHold0000, rest)
  | 0x41 => .ok (.encTInc0001, rest)
  | 0x42 => .ok (.encTDec0010, rest)
  | 0x43 => .ok (.encTRej0011, rest)
  | 0x44 => .ok (.encTDec0100, rest)
  | 0x45 => .ok (.encTHold0101, rest)
  | 0x46 => .ok (.encTRej0110, rest)
  | 0x47 => .ok (.encTInc0111, rest)
  | 0x48 => .ok (.encTInc1000, rest)
  | 0x49 => .ok (.encTRej1001, rest)
  | 0x4A => .ok (.encTHold1010, rest)
  | 0x4B => .ok (.encTDec1011, rest)
  | 0x4C => .ok (.encTRej1100, rest)
  | 0x4D => .ok (.encTDec1101, rest)
  | 0x4E => .ok (.encTInc1110, rest)
  | 0x4F => .ok (.encTHold1111, rest)
  | 0x50 => .ok (.encEnter, rest)
  | 0x60 => .ok (.encExit, rest)
  | 0x70 => .ok (.encEdgeAFall, rest)
  | 0x71 => .ok (.encEdgeARise, rest)
  | 0x72 => .ok (.encEdgeBFall, rest)
  | 0x73 => .ok (.encEdgeBRise, rest)
  | 0x80 =>
    withOperand (takeFlag rest) fun r0 tail1 =>
    withOperand (takeFlag tail1) fun r1 tail2 =>
    .ok (.btnScanCol0 r0 r1, tail2)
  | 0x81 =>
    withOperand (takeFlag rest) fun r0 tail1 =>
    withOperand (takeFlag tail1) fun r1 tail2 =>
    .ok (.btnScanCol1 r0 r1, tail2)
  | 0x90 => .ok (.btnFire, rest)
  | 0xC0 =>
    withOperand (takeHandle rest) fun h tail1 =>
    withOperand (takeCoord tail1) fun x tail2 =>
    withOperand (takeCoord tail2) fun y tail3 =>
    withOperand (takeFlag tail3) fun c tail4 =>
    .ok (.fbSet h x y c, tail4)
  | 0xC1 =>
    withOperand (takeHandle rest) fun h tail1 =>
    withOperand (takeCoord tail1) fun x tail2 =>
    withOperand (takeCoord tail2) fun y tail3 =>
    .ok (.fbGet h x y, tail3)
  | 0xC2 =>
    withOperand (takeHandle rest) fun h tail1 =>
    withOperand (takeFlag tail1) fun c tail2 =>
    .ok (.fbClear h c, tail2)
  | 0xC3 =>
    withOperand (takeHandle rest) fun h tail1 =>
    withOperand (takeCoord tail1) fun x tail2 =>
    withOperand (takeCoord tail2) fun y tail3 =>
    withOperand (takeFlag tail3) fun c tail4 =>
    .ok (.fbSetRaw h x y c, tail4)
  | 0xC4 =>
    withOperand (takeHandle rest) fun h tail1 =>
    withOperand (takeCoord tail1) fun x tail2 =>
    withOperand (takeCoord tail2) fun y tail3 =>
    .ok (.fbGetRaw h x y, tail3)
  | 0xC8 =>
    withOperand (takeBuf rest) fun pick tail1 =>
    .ok (.scAcquire pick, tail1)
  | 0xC9 =>
    withOperand (takeHandle rest) fun h tail1 =>
    .ok (.scPresent h, tail1)
  | 0xCA =>
    withOperand (takeHandle rest) fun h tail1 =>
    .ok (.scDrop h, tail1)
  | 0xD0 => .ok (.aggUpdate, rest)
  | 0xD1 => .ok (.aggEnc, rest)
  | 0xD2 => .ok (.aggBtn, rest)
  | _ => .error (.unassignedOpw opw)

/-- The operation a list of bytes begins with, and the bytes behind it. -/
def decode : List Byte → Decoded Instr
  | [] => .error .truncated
  | opw :: rest => decodeOp opw rest

/-- The operation word of an operation (R71). -/
def Instr.opw : Instr → Byte
  | .scanRefresh => 0x00#8
  | .scanRelease => 0x01#8
  | .scanPixA => 0x02#8
  | .scanPixB => 0x12#8
  | .scanPixC => 0x22#8
  | .scanGrid => 0x03#8
  | .scanFlush => 0x04#8
  | .scanWaitwin => 0x05#8
  | .scanBlankOn => 0x06#8
  | .scanLatchLo => 0x07#8
  | .scanLatchHi => 0x08#8
  | .scanBlankOff => 0x09#8
  | .scanArm => 0x0A#8
  | .scanAdv => 0x0B#8
  | .scCollect => 0x30#8
  | .scRelease _ => 0x31#8
  | .busDeliverPix => 0x34#8
  | .busDeliverGrid => 0x35#8
  | .busDropPix => 0x36#8
  | .busDropGrid => 0x37#8
  | .encTHold0000 => 0x40#8
  | .encTInc0001 => 0x41#8
  | .encTDec0010 => 0x42#8
  | .encTRej0011 => 0x43#8
  | .encTDec0100 => 0x44#8
  | .encTHold0101 => 0x45#8
  | .encTRej0110 => 0x46#8
  | .encTInc0111 => 0x47#8
  | .encTInc1000 => 0x48#8
  | .encTRej1001 => 0x49#8
  | .encTHold1010 => 0x4A#8
  | .encTDec1011 => 0x4B#8
  | .encTRej1100 => 0x4C#8
  | .encTDec1101 => 0x4D#8
  | .encTInc1110 => 0x4E#8
  | .encTHold1111 => 0x4F#8
  | .encEnter => 0x50#8
  | .encExit => 0x60#8
  | .encEdgeAFall => 0x70#8
  | .encEdgeARise => 0x71#8
  | .encEdgeBFall => 0x72#8
  | .encEdgeBRise => 0x73#8
  | .btnScanCol0 _ _ => 0x80#8
  | .btnScanCol1 _ _ => 0x81#8
  | .btnFire => 0x90#8
  | .fbSet _ _ _ _ => 0xC0#8
  | .fbGet _ _ _ => 0xC1#8
  | .fbClear _ _ => 0xC2#8
  | .fbSetRaw _ _ _ _ => 0xC3#8
  | .fbGetRaw _ _ _ => 0xC4#8
  | .scAcquire _ => 0xC8#8
  | .scPresent _ => 0xC9#8
  | .scDrop _ => 0xCA#8
  | .aggUpdate => 0xD0#8
  | .aggEnc => 0xD1#8
  | .aggBtn => 0xD2#8

/-- The operand bytes of an operation (log 1). -/
def Instr.operandBytes : Instr → List Byte
  | .scanRefresh => []
  | .scanRelease => []
  | .scanPixA => []
  | .scanPixB => []
  | .scanPixC => []
  | .scanGrid => []
  | .scanFlush => []
  | .scanWaitwin => []
  | .scanBlankOn => []
  | .scanLatchLo => []
  | .scanLatchHi => []
  | .scanBlankOff => []
  | .scanArm => []
  | .scanAdv => []
  | .scCollect => []
  | .scRelease i => putBuf i
  | .busDeliverPix => []
  | .busDeliverGrid => []
  | .busDropPix => []
  | .busDropGrid => []
  | .encTHold0000 => []
  | .encTInc0001 => []
  | .encTDec0010 => []
  | .encTRej0011 => []
  | .encTDec0100 => []
  | .encTHold0101 => []
  | .encTRej0110 => []
  | .encTInc0111 => []
  | .encTInc1000 => []
  | .encTRej1001 => []
  | .encTHold1010 => []
  | .encTDec1011 => []
  | .encTRej1100 => []
  | .encTDec1101 => []
  | .encTInc1110 => []
  | .encTHold1111 => []
  | .encEnter => []
  | .encExit => []
  | .encEdgeAFall => []
  | .encEdgeARise => []
  | .encEdgeBFall => []
  | .encEdgeBRise => []
  | .btnScanCol0 r0 r1 => putFlag r0 ++ putFlag r1
  | .btnScanCol1 r0 r1 => putFlag r0 ++ putFlag r1
  | .btnFire => []
  | .fbSet h x y c => putHandle h ++ putCoord x ++ putCoord y ++ putFlag c
  | .fbGet h x y => putHandle h ++ putCoord x ++ putCoord y
  | .fbClear h c => putHandle h ++ putFlag c
  | .fbSetRaw h x y c => putHandle h ++ putCoord x ++ putCoord y ++ putFlag c
  | .fbGetRaw h x y => putHandle h ++ putCoord x ++ putCoord y
  | .scAcquire pick => putBuf pick
  | .scPresent h => putHandle h
  | .scDrop h => putHandle h
  | .aggUpdate => []
  | .aggEnc => []
  | .aggBtn => []

/-- The bytes of an operation: its OPW, then its operands. -/
def encode (i : Instr) : List Byte := i.opw :: i.operandBytes

/-- Bytes of the longest record whose operands are all zero, `FB.SET 0, 0, 0, unlit`. -/
def zeroRecordBytes : Nat := 5

/-- The bytes of an operation whose bits are `w`, bit 0 the least significant bit of the OPW, every
bit from `nbits` up 0. -/
def tableBytes (nbits w : Nat) : List Byte :=
  (List.range (max zeroRecordBytes ((nbits + 7) / 8))).map
    fun k => BitVec.ofNat 8 ((w % 2 ^ nbits) >>> (8 * k))

/-- The operation the decoder reads from a row of spec/opcode_table.json. -/
def decodeTableWord (nbits w : Nat) : Option Instr :=
  match decode (tableBytes nbits w) with
  | .ok (i, _) => some i
  | .error _ => none

end Sys2Proof
end

