-- ==== Sys2Proof/Machine/State.lean ====
section
/-! DEFINITION. The machine's state as plain data (10_state.md, whole), the reasons a step can stop,
and the state after reset (10_state.md R36). One record per block, each field under the spec's own
name. -/

namespace Sys2Proof.Machine

/-- `ph`: the operation the scanner executes next (R11), in the order of its numbers 0 to 11. -/
inductive ScanPhase where
  | refresh | release | pix | grid | flush | waitwin | blankOn | latchLo | latchHi | blankOff | arm | adv
  deriving DecidableEq, Repr

/-- The value of the 4-bit `ph` (R11). -/
def ScanPhase.code : ScanPhase → BitVec 4
  | .refresh => 0 | .release => 1 | .pix => 2 | .grid => 3 | .flush => 4 | .waitwin => 5
  | .blankOn => 6 | .latchLo => 7 | .latchHi => 8 | .blankOff => 9 | .arm => 10 | .adv => 11

/-- `enc_ph`: 0 not running, 1 entered and settling, 2 decoded and about to return (R24). -/
inductive EncPhase where
  | idle | settling | decoded
  deriving DecidableEq, Repr

/-- The value of the 2-bit `enc_ph` (R24). -/
def EncPhase.code : EncPhase → BitVec 2
  | .idle => 0 | .settling => 1 | .decoded => 2

/-- `agg_ph`: 0 `AGG.ENC` is next, 1 to 4 `AGG.BTN` of slot `agg_ph - 1`, 5 `AGG.UPDATE` (R34). -/
inductive AggPhase where
  | enc
  | btn (slot : Fin 4)
  | update
  deriving DecidableEq, Repr

/-- The value of the 3-bit `agg_ph` (R34). -/
def AggPhase.code : AggPhase → BitVec 3
  | .enc => 0
  | .btn k => BitVec.ofNat 3 (k.val + 1)
  | .update => 5

/-- The display scanner's own registers and pins (R11 to R16). -/
structure Scanner where
  /-- `ph` (R11). -/
  ph : ScanPhase
  /-- `g`, the grid line (R12). -/
  g : GridLine
  /-- `cur`, the buffer in use (R13). -/
  cur : Option Buf
  /-- `rel`, the buffer waiting to be released (R13). -/
  rel : Option Buf
  /-- `t_arm`, when the blanking window was last armed (R14). -/
  tArm : Time
  /-- `t_ctl`, when the last control-line event was (R14). -/
  tCtl : Time
  /-- `BLANK[0..1]` (R15). -/
  blank : Vector Level 2
  /-- `LATCH[0..1]` (R16). -/
  latch : Vector Level 2
  deriving DecidableEq, Repr

/-- The bytes handed to the serial buses and not yet shifted out, oldest first (R17, R32). -/
structure Buses where
  pixq : List Byte
  gridq : List Byte
  deriving DecidableEq, Repr

/-- The frame hand-off (R18 to R20). -/
structure SwapChain where
  free : BufSet
  pending : Option Buf
  acq : BufSet
  deriving DecidableEq, Repr

/-- Encoder capture (R21 to R24). -/
structure Encoder where
  /-- `enc_prev`: `ENC_A` in bit 1, `ENC_B` in bit 0 (R21). -/
  encPrev : BitVec 2
  /-- `enc_if`: `A_FALL`, `A_RISE`, `B_FALL`, `B_RISE` in bits 0 to 3 (R22). -/
  encIf : BitVec 4
  /-- `enc_count` (R23). -/
  encCount : Count
  /-- `enc_ph` (R24). -/
  encPh : EncPhase
  /-- `enc_trig`, the flags that were pending at handler entry (R24). -/
  encTrig : BitVec 4
  /-- `t_enc`, the instant of handler entry (R24). -/
  tEnc : Time
  deriving DecidableEq, Repr

/-- Button capture (R26 to R30). -/
structure Buttons where
  /-- `btn_col`, the active column (R26). -/
  btnCol : Fin 2
  /-- `btn_raw[0..3]` (R27). -/
  btnRaw : Vector Level 4
  /-- `COL_SEL[0..1]` (R28). -/
  colSel : Vector Level 2
  /-- `btn_if`, the timer's pending flag (R30). -/
  btnIf : Bool
  /-- `btn_deadline` (R30). -/
  btnDeadline : Time
  deriving DecidableEq, Repr

/-- The input aggregator's private state and the position of its run (R34). -/
structure Aggregator where
  aggPrevDetent : Count
  aggPrevBtn : Vector Level 4
  aggPh : AggPhase
  aggTCount : Count
  aggTLvl : Vector Level 4
  deriving DecidableEq, Repr

/-- `HANDLE` (30_encoding.md R75): what `SC.ACQUIRE` gives the host. -/
structure Handle where
  idx : Buf
  presented : Bool
  deriving DecidableEq, Repr

/-- The pairs of output lines that change in one event (R69, R136; D12). -/
inductive PinPair where
  | blank | latch | colSel
  deriving DecidableEq, Repr

/-- What the core drives out (R35). A pair of output lines is one event that carries the level of
line 0 and of line 1, so no order within the pair can be told (D12, log 19). -/
inductive Event where
  | pix (b : Byte)
  | grid (b : Byte)
  | pins (pair : PinPair) (level0 level1 : Level)
  deriving DecidableEq, Repr

/-- An event with the instant at which it happened (R35). -/
structure TraceEntry where
  time : Time
  event : Event
  deriving DecidableEq, Repr

/-- State of one logical button as the aggregator reports it (R76). -/
structure ButtonState where
  down : Bool
  pressed : Bool
  released : Bool
  deriving DecidableEq, Repr

/-- State of the encoder as the aggregator reports it (R76). -/
structure EncoderState where
  count : Count
  delta : Count
  push : ButtonState
  deriving DecidableEq, Repr

/-- `INPUTSTATE` (R76). -/
structure InputState where
  button : Vector ButtonState 3
  encoder : EncoderState
  deriving DecidableEq, Repr

/-- A value an operation returns to its caller (R74 `-> result`; log 18). -/
inductive Result where
  /-- `SC.ACQUIRE`: the number of the new handle, or none available (R90). -/
  | acquired (h : Option Nat)
  /-- `SC.COLLECT`: the index that was waiting, or none (R93). -/
  | collected (i : Option Buf)
  /-- `FB.GET`, `FB.GET_RAW`: the pixel, `true` = lit (R81, R83). -/
  | pixel (v : Bool)
  /-- `AGG.UPDATE` (R147). -/
  | input (s : InputState)
  deriving DecidableEq, Repr

/-- One entry of the agenda: the instant of a step, and the bytes of its operation (log 2, 4). -/
structure Slot where
  time : Time
  bytes : List Byte
  deriving DecidableEq, Repr

/-- The whole machine. -/
structure State where
  /-- The display scanner. -/
  scan : Scanner
  /-- The serial buses. -/
  bus : Buses
  /-- The frame hand-off. -/
  swap : SwapChain
  /-- Encoder capture. -/
  enc : Encoder
  /-- Button capture. -/
  btn : Buttons
  /-- The frame store `FS` (R31): the bytes that have been written, in canonical form (log 10). -/
  fs : List Host.Cell
  /-- The input aggregator. -/
  agg : Aggregator
  /-- The handles the host was given, by number; `none` once dropped (R75, R95; log 14). -/
  handles : List (Option Handle)
  /-- `now` (R7, R197). -/
  now : Time
  /-- The output trace, oldest first (R35). -/
  trace : List TraceEntry
  /-- MODEL's own: the values returned to callers, oldest first (log 18). -/
  results : List Result
  /-- MODEL's own: the operations the agents take next, the first one first (log 2). -/
  agenda : List Slot
  deriving DecidableEq, Repr

/-- The hardware has no fault: "No operation of any agent traps, faults, aborts or transfers control
anywhere because of what it was asked to do" (R155); "Nothing in this hardware is `fault` or
`stuck`" (93). -/
inductive Fault
  deriving DecidableEq, Repr

/-- Why the model gives a step no meaning. Every reason is one the spec itself calls refused. -/
inductive Refusal where
  /-- An operation without a meaning yet, raised by `exec`'s arm. Safe. No arm raises it. -/
  | notModelled (mnemonic : String)
  /-- The bytes at the head of the agenda are no operation: raised by the fetch (R73, 93 U16). Safe. -/
  | undecodable (e : DecodeError)
  /-- An operation through a handle that was never acquired or was dropped: raised by `FB.*`,
  `SC.PRESENT`, `SC.DROP` (R85, R170; 93 U11, U13). Safe. -/
  | handleNotHeld
  /-- `FB.*` through a handle that was presented, or whose index is not in `acq`: raised by `FB.*`
  (R85; 93 U11). Safe. -/
  | handleNotWritable
  /-- `FB.SET_RAW` or `FB.GET_RAW` outside `[0,132) x [0,64)` (R82, R83; 93 U12). Safe. -/
  | rawOutOfRange
  /-- An aggregator step out of its order: raised by `AGG.*` (R170; 93 U13). Safe. -/
  | aggOutOfOrder
  /-- A buffer index in two collections, which no rule produces: raised by the fetch (93 U14). Safe. -/
  | unreachableState
  deriving DecidableEq, Repr

/-- The machine right after reset: the last column of the table of R36. -/
def State.reset : State where
  scan := { ph := .refresh, g := ⟨1, by decide⟩, cur := none, rel := none, tArm := 0, tCtl := 0,
            blank := #v[false, false], latch := #v[true, true] }
  bus := { pixq := [], gridq := [] }
  swap := { free := #v[true, true, true], pending := none, acq := #v[false, false, false] }
  enc := { encPrev := Config.encPrevReset, encIf := 0b0000#4, encCount := 0#32, encPh := .idle,
           encTrig := 0b0000#4, tEnc := 0 }
  btn := { btnCol := 0, btnRaw := #v[false, false, false, false], colSel := #v[true, false],
           btnIf := false, btnDeadline := Config.tBtn }
  fs := []
  agg := { aggPrevDetent := 0#32, aggPrevBtn := #v[false, false, false, false], aggPh := .enc,
           aggTCount := 0#32, aggTLvl := #v[false, false, false, false] }
  handles := []
  now := 0
  trace := []
  results := []
  agenda := []

end Sys2Proof.Machine
end

