-- ==== Sys2Proof/Machine/Flags.lean ====
section
/-! DEFINITION. The interrupt-pending flags, the only flags of the core (R22, R30, R33, R161): what
sets, snapshots and clears them. -/

namespace Sys2Proof.Machine

/-- The four edge kinds, in the order of their flags in `enc_if` (R22). -/
inductive EdgeKind where
  | aFall | aRise | bFall | bRise
  deriving DecidableEq, Repr

/-- The bit of an edge kind in `enc_if` (R22). -/
def EdgeKind.bit : EdgeKind → Fin 4
  | .aFall => 0 | .aRise => 1 | .bFall => 2 | .bRise => 3

/-- `enc_if[k] <- 1`; a flag that is 1 stays 1 (R120). -/
def setEdgeFlag (flags : BitVec 4) (k : EdgeKind) : BitVec 4 := flags ||| (1#4 <<< k.bit.val)

/-- `enc_if AND NOT enc_trig` (R126). -/
def clearTriggered (flags trig : BitVec 4) : BitVec 4 := flags &&& ~~~trig

/-- An encoder interrupt is pending (R121, R162). -/
def encPending (e : Encoder) : Bool := e.encIf != 0#4

/-- The button timer's flag may be set: the deadline has come and the flag is clear (R135). -/
def timerExpired (b : Buttons) (now : Time) : Bool := b.btnDeadline ≤ now && !b.btnIf

end Sys2Proof.Machine
end

