-- ==== Sys2Proof/Machine/Operands.lean ====
section
/-! DEFINITION. Operand forms and the arithmetic of the rules: the coordinate map (R57), the grid
line's column and class (R61), the byte transform (R62), the grid-select word (R65), the transition
table (R67), the slots (R68), the division into detents (R148) and the wrap-tolerant difference
(R149). -/

namespace Sys2Proof.Machine

/-! ### Bits of a byte -/

/-- `rev8(b)`: bit `i` is `b[7-i]` (R6). -/
def rev8 (b : Byte) : Byte := BitVec.ofFnLE fun i : Fin 8 => b[7 - i.val]

/-- The eight levels a byte puts on a serial bus, in time order: bit 7 first (R63). -/
def wireBits (b : Byte) : List Level := List.ofFn fun i : Fin 8 => b[7 - i.val]

/-! ### Pixel coordinates -/

/-- Column group and place within it of a pixel column, and the bit number within the group (R57). -/
def groupBit (x : Fin 132) (y : Fin 64) : Nat := 6 * y.val + (Config.perm[x.val % 6]'(by omega)).val

theorem groupBit_lt (x : Fin 132) (y : Fin 64) : groupBit x y < 384 := by
  have hy := y.isLt
  have hp := (Config.perm[x.val % 6]'(by omega)).isLt
  unfold groupBit
  omega

/-- The byte offset of a pixel: `48*grp + n div 8` (R57). -/
def pixelOffset (x : Fin 132) (y : Fin 64) : Offset :=
  ⟨48 * (x.val / 6) + groupBit x y / 8, by have := groupBit_lt x y; have := x.isLt; omega⟩

/-- The bit of a pixel within its byte: `n mod 8` (R57). -/
def pixelBit (x : Fin 132) (y : Fin 64) : Fin 8 := ⟨groupBit x y % 8, Nat.mod_lt _ (by decide)⟩

/-- The raw accessors' range: `0 <= x < 132` and `0 <= y < 64` (R82). -/
def rawCoord? (x y : Int) : Option (Fin 132 × Fin 64) :=
  if h : (0 ≤ x ∧ x < 132) ∧ (0 ≤ y ∧ y < 64) then
    some (⟨x.toNat, by omega⟩, ⟨y.toNat, by omega⟩)
  else none

/-- The logical area: `0 <= x < 128` and `0 <= y < 64` (R80). -/
def inLogicalArea (x y : Int) : Bool := 0 ≤ x && x < 128 && 0 ≤ y && y < 64

/-- A byte with one bit set or cleared (R82). -/
def withBit (s : Byte) (bit : Fin 8) (c : Bool) : Byte :=
  if c then s ||| (1#8 <<< bit.val) else s &&& ~~~(1#8 <<< bit.val)

/-- What `FB.CLEAR` fills a buffer with (R42, R84). -/
def fillByte (c : Bool) : Byte := if c then 0xFF#8 else 0x00#8

/-! ### The grid line -/

/-- Pattern class of a grid line (R61). -/
inductive PatternClass where
  | a | b | c
  deriving DecidableEq, Repr

/-- Column group of a grid line, `(g-1) div 2` (R61). -/
def columnOf (g : GridLine) : Fin 22 := ⟨(g.val - 1) / 2, by have := g.property; omega⟩

/-- Class of a grid line: C for line 43, else A for odd and B for even lines (R61). -/
def classOf (g : GridLine) : PatternClass :=
  if g.val = 43 then .c else if g.val % 2 = 1 then .a else .b

/-- The grid line after `g`, cyclic over `1..43` (R113). -/
def nextLine (g : GridLine) : GridLine := ⟨g.val % 43 + 1, by omega⟩

/-- Offset of byte `i` of a column group (R58). -/
def sliceOffset (c : Fin 22) (i : Fin 48) : Offset := ⟨48 * c.val + i.val, by omega⟩

/-- Offset of byte `i` of the last column group's first 16 bytes (R104). -/
def lastSliceOffset (i : Fin 16) : Offset := ⟨1008 + i.val, by omega⟩

/-- The byte transform `T(s, m) = ~rev8(s & m)` (R62). -/
def byteTransform (s m : Byte) : Byte := ~~~(rev8 (s &&& m))

/-- The grid-select word: all ones but bits `g-1` and `g` (R65). -/
def gridWord (g : GridLine) : BitVec 48 :=
  BitVec.ofNat 48 (2 ^ 48 - 1 - 2 ^ (g.val - 1) - 2 ^ g.val)

/-- Byte `k` of the grid-select word as handed to the bus (R65). -/
def gridByte (g : GridLine) (k : Fin 6) : Byte := rev8 ((gridWord g).extractLsb' (8 * k.val) 8)

/-! ### The quadrature table -/

/-- The 16-entry transition table, index `{enc_prev, new}` (R67). -/
def transitionTable : Vector Int 16 :=
  #v[ 0,  1, -1,  0,
     -1,  0,  0,  1,
      1,  0,  0, -1,
      0, -1,  1,  0]

/-- The table's result for a stored and a sampled line state (R67). -/
def transition (prev new : BitVec 2) : Int := transitionTable[(prev ++ new).toNat]'(prev ++ new).isLt

/-- `wrap32(v + d)` on the raw count (R56, R122, R123). -/
def addCount (v : Count) (d : Int) : Count := v + BitVec.ofInt 32 d

/-! ### Buttons and the aggregator -/

/-- `slot = 2*col + row` (R68). -/
def slotOf (col row : Fin 2) : Fin 4 := ⟨2 * col.val + row.val, by omega⟩

/-- The other column, `1 - btn_col` (R136). -/
def otherCol (c : Fin 2) : Fin 2 := ⟨1 - c.val, by omega⟩

/-- `det = c tdiv 4`: the count divided by 4, rounded toward zero (R148). -/
def detents (c : Count) : Int := c.toInt.tdiv 4

/-- The wrap-tolerant difference: the one of the two interpretations of smaller magnitude (R149). -/
def wdelta (prev new : Int) : Int :=
  let d1 := new - prev
  if d1 = 0 then d1
  else
    let d2 := if 0 < d1 then d1 - 2 ^ 32 else d1 + 2 ^ 32
    if d1.natAbs < d2.natAbs then d1
    else if d2.natAbs < d1.natAbs then d2
    else -2 ^ 31

/-- A slot's reported state from its level now and at the previous run (R147). -/
def buttonState (lvl prev : Level) : ButtonState where
  down := lvl
  pressed := lvl && !prev
  released := !lvl && prev

/-- The slot of a logical button: `BUTTON_MAP^-1` (R147). -/
def slotOfButton (button : Fin 4) : Fin 4 := Config.buttonMap.symm button

/-- The `INPUTSTATE` of one run (R76, R147): `det` and `delta` are the detent count and its change,
`lvl` the levels loaded, `prev` the levels of the previous run. -/
def inputState (det delta : Int) (lvl prev : Vector Level 4) : InputState :=
  let report (button : Fin 4) := buttonState lvl[slotOfButton button] prev[slotOfButton button]
  { button := #v[report 0, report 1, report 2]
    encoder := { count := BitVec.ofInt 32 det, delta := BitVec.ofInt 32 delta, push := report 3 } }

end Sys2Proof.Machine
end

