-- ==== Sys2Proof/Machine/Ops.lean ====
section
/-! DEFINITION. The named operations over the state that the meanings share: updates of one part,
memory, sets of buffer indices, the swap chain's regions, emission, the trace, enabling conditions,
and interrupt entry and return. -/

namespace Sys2Proof.Machine

/-! ### Updates of one part of the state -/

def State.withScan (s : State) (x : Scanner) : State := { s with scan := x }
def State.withBus (s : State) (x : Buses) : State := { s with bus := x }
def State.withSwap (s : State) (x : SwapChain) : State := { s with swap := x }
def State.withEnc (s : State) (x : Encoder) : State := { s with enc := x }
def State.withBtn (s : State) (x : Buttons) : State := { s with btn := x }
def State.withFs (s : State) (x : List Host.Cell) : State := { s with fs := x }
def State.withAgg (s : State) (x : Aggregator) : State := { s with agg := x }
def State.withHandles (s : State) (x : List (Option Handle)) : State := { s with handles := x }
def State.withNow (s : State) (x : Time) : State := { s with now := x }
def State.withAgenda (s : State) (x : List Slot) : State := { s with agenda := x }

/-- Appends an event to the trace, with the present instant (R35). -/
def State.emitEvent (s : State) (e : Event) : State :=
  { s with trace := s.trace ++ [{ time := s.now, event := e }] }

/-- Hands a value to the caller of the operation (log 18). -/
def State.answer (s : State) (r : Result) : State := { s with results := s.results ++ [r] }

/-! ### Outcomes -/

/-- The outcome of a step. -/
abbrev Out := Host.Outcome State Fault Refusal

/-- Takes the state `t` if the operation is enabled; "An operation whose enabling condition is false
has no step (the scanner holds)" (42_display_scanner.md, header): then nothing changes (log 3). -/
def whenEnabled (enabled : Bool) (s t : State) : Out := if enabled then .next t else .next s

/-! ### The frame store -/

/-- Number of the byte at offset `off` of buffer `b`, the key of its cell (log 10). -/
def cellKey (b : Buf) (off : Offset) : Nat := 1056 * b.val + off.val

/-- The byte a list of cells gives a key, if it lists one. -/
def findCell : List Host.Cell → Nat → Option Byte
  | [], _ => none
  | (k', v) :: rest, k => if k' = k then some v else findCell rest k

/-- Lists the byte `v` at key `k`, in place, replacing what stood there. -/
def putCell : List Host.Cell → Nat → Byte → List Host.Cell
  | [], k, v => [(k, v)]
  | (k', v') :: rest, k, v =>
    if k < k' then (k, v) :: (k', v') :: rest
    else if k = k' then (k, v) :: rest
    else (k', v') :: putCell rest k v

/-- Lists `v` at the `n` keys from `base` up, in place of what stood there. -/
def fillCells (m : List Host.Cell) (base n : Nat) (v : Byte) : List Host.Cell :=
  m.filter (fun c => c.1 < base) ++ (List.range n).map (fun i => (base + i, v))
    ++ m.filter (fun c => base + n ≤ c.1)

/-- The cells stand at strictly rising keys. -/
def cellsRise : List Host.Cell → Bool
  | [] => true
  | [_] => true
  | (k, _) :: (k', v') :: rest => k < k' && cellsRise ((k', v') :: rest)

/-- The canonical form: strictly rising keys, all of them bytes of the store. An unlisted byte reads
as a free value, which no listed byte is known to equal (log 10). -/
def Memory.wf (m : List Host.Cell) : Bool := cellsRise m && m.all fun c => c.1 < 3168

/-- `MemRead((b, off), 1)` (R7, R44): a byte that was never written holds its value at reset. -/
def State.readByte (s : State) (b : Buf) (off : Offset) : Byte :=
  (findCell s.fs (cellKey b off)).getD (Config.fsReset b off)

/-- `MemWrite((b, off), 1, v)` (R7, R44). -/
def State.writeByte (s : State) (b : Buf) (off : Offset) (v : Byte) : State :=
  s.withFs (putCell s.fs (cellKey b off) v)

/-- The 1056 writes of `FB.CLEAR` (R84). -/
def State.fillBuffer (s : State) (b : Buf) (v : Byte) : State :=
  s.withFs (fillCells s.fs (cellKey b 0) 1056 v)

/-- The read-modify-write that sets or clears one pixel (R82). -/
def State.writePixel (s : State) (b : Buf) (x : Fin 132) (y : Fin 64) (c : Bool) : State :=
  s.writeByte b (pixelOffset x y) (withBit (s.readByte b (pixelOffset x y)) (pixelBit x y) c)

/-- The pixel at a raw coordinate (R83). -/
def State.readPixel (s : State) (b : Buf) (x : Fin 132) (y : Fin 64) : Bool :=
  (s.readByte b (pixelOffset x y))[(pixelBit x y).val]

/-! ### Sets of buffer indices -/

/-- Membership. -/
def BufSet.has (f : BufSet) (i : Buf) : Bool := f[i]

/-- The set with `i`. -/
def BufSet.add (f : BufSet) (i : Buf) : BufSet := f.set i.val true

/-- The set without `i`. -/
def BufSet.remove (f : BufSet) (i : Buf) : BufSet := f.set i.val false

/-- The set has no element. -/
def BufSet.isEmpty (f : BufSet) : Bool := !(BufSet.has f 0 || BufSet.has f 1 || BufSet.has f 2)

/-- Number of elements. -/
def BufSet.size (f : BufSet) : Nat :=
  (BufSet.has f 0).toNat + (BufSet.has f 1).toNat + (BufSet.has f 2).toNat

/-- The free index an acquire takes: the drawn one if it is free, else the next one round that is
(`FREE_PICK`: "any element of free", R90; log 11). Every free index is the choice of some draw. -/
def BufSet.choose (f : BufSet) (pick : Buf) : Option Buf :=
  if BufSet.has f pick then some pick
  else if BufSet.has f (pick + 1) then some (pick + 1)
  else if BufSet.has f (pick + 2) then some (pick + 2)
  else none

/-! ### The swap chain's atomic regions (R50) -/

/-- Moves `i` from `free` to `acq` (R90). -/
def SwapChain.take (w : SwapChain) (i : Buf) : SwapChain :=
  { w with free := BufSet.remove w.free i, acq := BufSet.add w.acq i }

/-- Makes `i` pending; a superseded index is freed at once (R91). -/
def SwapChain.publish (w : SwapChain) (i : Buf) : SwapChain where
  free := match w.pending with
    | some j => BufSet.add w.free j
    | none => w.free
  pending := some i
  acq := BufSet.remove w.acq i

/-- Moves `i` from `acq` back to `free` (R92). -/
def SwapChain.giveBack (w : SwapChain) (i : Buf) : SwapChain :=
  { w with acq := BufSet.remove w.acq i, free := BufSet.add w.free i }

/-- Takes the pending index, leaving none (R93). -/
def SwapChain.collect (w : SwapChain) : Option Buf × SwapChain := (w.pending, { w with pending := none })

/-- Adds `i` to `free` (R94). -/
def SwapChain.release (w : SwapChain) (i : Buf) : SwapChain := { w with free := BufSet.add w.free i }

/-- In how many of the five collections `free`, `acq`, `pending`, `cur`, `rel` an index stands (R96). -/
def State.placesOf (s : State) (i : Buf) : Nat :=
  (BufSet.has s.swap.free i).toNat + (BufSet.has s.swap.acq i).toNat
    + (s.swap.pending == some i).toNat + (s.scan.cur == some i).toNat + (s.scan.rel == some i).toNat

/-- An index stands in two collections, a state no rule produces (93 U14). -/
def State.indexTwice (s : State) : Bool := 1 < s.placesOf 0 || 1 < s.placesOf 1 || 1 < s.placesOf 2

/-! ### Handles (R75, R95) -/

/-- The handle the host holds under a number, if it was acquired and not dropped. -/
def State.handle? (s : State) (h : Nat) : Option Handle := (s.handles[h]?).join

/-- Gives the host a new handle; its number is the next one (R90). -/
def State.grantHandle (s : State) (i : Buf) : State :=
  s.withHandles (s.handles ++ [some { idx := i, presented := false }])

/-- `h.presented <- true` (R91). -/
def State.markPresented (s : State) (h : Nat) (hd : Handle) : State :=
  s.withHandles (s.handles.set h (some { hd with presented := true }))

/-- The handle ceases to exist (R92). -/
def State.endHandle (s : State) (h : Nat) : State := s.withHandles (s.handles.set h none)

/-- Runs `k` on the buffer of a handle that is live, "`h.presented = false` and `h.idx` in `acq`";
any other handle is refused (R85, R170). -/
def withLiveHandle (h : Nat) (s : State) (k : Buf → Out) : Out :=
  match s.handle? h with
  | none => .refused .handleNotHeld
  | some hd =>
    if !hd.presented && BufSet.has s.swap.acq hd.idx then k hd.idx else .refused .handleNotWritable

/-! ### Serial buses and control lines -/

/-- `emit PIXBUS` of bytes, in order (R7, R17). -/
def State.emitPix (s : State) (bs : List Byte) : State := s.withBus { s.bus with pixq := s.bus.pixq ++ bs }

/-- `emit GRIDBUS` of bytes, in order (R7, R17). -/
def State.emitGrid (s : State) (bs : List Byte) : State := s.withBus { s.bus with gridq := s.bus.gridq ++ bs }

/-- The phase counter moves on (R11). -/
def State.toPhase (s : State) (p : ScanPhase) : State := s.withScan { s.scan with ph := p }

/-- Both blank-enable lines at one level, one event (R69, R108, R111). -/
def State.driveBlank (s : State) (v : Level) : State :=
  (s.withScan { s.scan with blank := #v[v, v] }).emitEvent (.pins .blank v v)

/-- Both latch lines at one level, one event (R69, R109, R110). -/
def State.driveLatch (s : State) (v : Level) : State :=
  (s.withScan { s.scan with latch := #v[v, v] }).emitEvent (.pins .latch v v)

/-- `t_ctl <- now` (R14). -/
def State.stampCtl (s : State) : State := s.withScan { s.scan with tCtl := s.now }

/-- The separation of control-line events has passed: `now - t_ctl >= 100` ns (R109 to R111). -/
def State.ctrlElapsed (s : State) : Bool := s.scan.tCtl + Config.tCtrl ≤ s.now

/-! ### Interrupt entry and return (R165 to R168) -/

/-- Encoder interrupt entry: the whole of it, since nothing is saved, no mode changes and no vector
is computed (R121, R165). -/
def State.encEntry (s : State) : State :=
  s.withEnc { s.enc with encTrig := s.enc.encIf, tEnc := s.now, encPh := .settling }

/-- Encoder interrupt return: the triggering flags are cleared, nothing is restored (R126, R167). -/
def State.encReturn (s : State) : State :=
  s.withEnc { s.enc with encIf := clearTriggered s.enc.encIf s.enc.encTrig, encPh := .idle }

/-- Button interrupt return: the firing is served and the timer re-armed (R136, R168). -/
def State.btnReturn (s : State) : State :=
  s.withBtn { s.btn with btnIf := false, btnDeadline := s.now + Config.tBtn }

end Sys2Proof.Machine
end

