-- ==== Sys2Proof/Machine/Aggregator.lean ====
section
/-! DEFINITION. The input aggregator (45_input_aggregator.md R145 to R147). A step out of its order
is refused (R170). -/

namespace Sys2Proof.Machine

/-- The position after the load of slot `k` (R146). -/
def afterSlot (k : Fin 4) : AggPhase :=
  if h : k.val + 1 < 4 then .btn ⟨k.val + 1, h⟩ else .update

/-- `AGG.ENC` (R145): one atomic load of the raw count. -/
def execAggEnc (s : State) : Out :=
  match s.agg.aggPh with
  | .enc => .next (s.withAgg { s.agg with aggTCount := s.enc.encCount, aggPh := .btn 0 })
  | .btn _ | .update => .refused .aggOutOfOrder

/-- `AGG.BTN` (R146): one atomic load of the level of slot `agg_ph - 1`. -/
def execAggBtn (s : State) : Out :=
  match s.agg.aggPh with
  | .btn k =>
    .next (s.withAgg { s.agg with
      aggTLvl := s.agg.aggTLvl.set k.val s.btn.btnRaw[k], aggPh := afterSlot k })
  | .enc | .update => .refused .aggOutOfOrder

/-- `AGG.UPDATE` (R147): reports detents, delta and button edges, and takes the new snapshots. -/
def execAggUpdate (s : State) : Out :=
  match s.agg.aggPh with
  | .update =>
    let det := detents s.agg.aggTCount
    let delta := wdelta s.agg.aggPrevDetent.toInt det
    .next ((s.answer (.input (inputState det delta s.agg.aggTLvl s.agg.aggPrevBtn))).withAgg
      { s.agg with
        aggPrevDetent := BitVec.ofInt 32 det, aggPrevBtn := s.agg.aggTLvl, aggPh := .enc })
  | .enc | .btn _ => .refused .aggOutOfOrder

end Sys2Proof.Machine
end

