-- ==== Sys2Proof/Machine/ButtonCapture.lean ====
section
/-! DEFINITION. Button capture (44_button_capture.md R135, R136). -/

namespace Sys2Proof.Machine

/-- `BTN.FIRE` (R135): the timer expires. -/
def execBtnFire (s : State) : Out :=
  whenEnabled (timerExpired s.btn s.now) s (s.withBtn { s.btn with btnIf := true })

/-- The two stores into the slots of column `col` (R136). -/
def storeRows (raw : Vector Level 4) (col : Fin 2) (r0 r1 : Level) : Vector Level 4 :=
  (raw.set (slotOf col 0).val r0).set (slotOf col 1).val r1

/-- The select lines with column `col` driven low and the other driven high (R136). -/
def switchColumn (lines : Vector Level 2) (col : Fin 2) : Vector Level 2 :=
  (lines.set col.val false).set (otherCol col).val true

/-- The handler of the button timer with `btn_col = col` on entry and the row levels `r0`, `r1`
sampled: entry, body and return in one step (R136, R166, R168). -/
def scanColumn (col : Fin 2) (r0 r1 : Level) (s : State) : Out :=
  let lines := switchColumn s.btn.colSel col
  whenEnabled (s.btn.btnIf && s.btn.btnCol == col) s
    ((s.withBtn { s.btn with
        btnRaw := storeRows s.btn.btnRaw col r0 r1, colSel := lines, btnCol := otherCol col }).emitEvent
      (.pins .colSel lines[0] lines[1])).btnReturn

/-- `BTN.SCAN r0, r1` with `btn_col = 0` (R136). -/
def execBtnScanCol0 (r0 r1 : Level) (s : State) : Out := scanColumn 0 r0 r1 s

/-- `BTN.SCAN r0, r1` with `btn_col = 1` (R136). -/
def execBtnScanCol1 (r0 r1 : Level) (s : State) : Out := scanColumn 1 r0 r1 s

end Sys2Proof.Machine
end

