-- ==== Sys2Proof/Machine/EncoderCapture.lean ====
section
/-! DEFINITION. Encoder capture (43_encoder_capture.md R120 to R126). -/

namespace Sys2Proof.Machine

/-- One transition step: enabled when the handler has settled and the stored state is `prev`; `new`
is the state sampled at this step. The table's result is added to the count and the new state is
stored (R67, R122 to R125). -/
def encTransition (prev new : BitVec 2) (s : State) : Out :=
  whenEnabled
    (s.enc.encPh == .settling && (s.enc.encPrev == prev && s.enc.tEnc + Config.encSettle ≤ s.now)) s
    (s.withEnc { s.enc with
      encCount := addCount s.enc.encCount (transition prev new), encPrev := new, encPh := .decoded })

/-- `ENC.T.HOLD 0000` (R124). -/
def execEncTHold0000 (s : State) : Out := encTransition 0b00#2 0b00#2 s

/-- `ENC.T.INC 0001` (R122). -/
def execEncTInc0001 (s : State) : Out := encTransition 0b00#2 0b01#2 s

/-- `ENC.T.DEC 0010` (R123). -/
def execEncTDec0010 (s : State) : Out := encTransition 0b00#2 0b10#2 s

/-- `ENC.T.REJ 0011` (R125). -/
def execEncTRej0011 (s : State) : Out := encTransition 0b00#2 0b11#2 s

/-- `ENC.T.DEC 0100` (R123). -/
def execEncTDec0100 (s : State) : Out := encTransition 0b01#2 0b00#2 s

/-- `ENC.T.HOLD 0101` (R124). -/
def execEncTHold0101 (s : State) : Out := encTransition 0b01#2 0b01#2 s

/-- `ENC.T.REJ 0110` (R125). -/
def execEncTRej0110 (s : State) : Out := encTransition 0b01#2 0b10#2 s

/-- `ENC.T.INC 0111` (R122). -/
def execEncTInc0111 (s : State) : Out := encTransition 0b01#2 0b11#2 s

/-- `ENC.T.INC 1000` (R122). -/
def execEncTInc1000 (s : State) : Out := encTransition 0b10#2 0b00#2 s

/-- `ENC.T.REJ 1001` (R125). -/
def execEncTRej1001 (s : State) : Out := encTransition 0b10#2 0b01#2 s

/-- `ENC.T.HOLD 1010` (R124). -/
def execEncTHold1010 (s : State) : Out := encTransition 0b10#2 0b10#2 s

/-- `ENC.T.DEC 1011` (R123). -/
def execEncTDec1011 (s : State) : Out := encTransition 0b10#2 0b11#2 s

/-- `ENC.T.REJ 1100` (R125). -/
def execEncTRej1100 (s : State) : Out := encTransition 0b11#2 0b00#2 s

/-- `ENC.T.DEC 1101` (R123). -/
def execEncTDec1101 (s : State) : Out := encTransition 0b11#2 0b01#2 s

/-- `ENC.T.INC 1110` (R122). -/
def execEncTInc1110 (s : State) : Out := encTransition 0b11#2 0b10#2 s

/-- `ENC.T.HOLD 1111` (R124). -/
def execEncTHold1111 (s : State) : Out := encTransition 0b11#2 0b11#2 s

/-- `ENC.ENTER` (R121): interrupt entry. -/
def execEncEnter (s : State) : Out :=
  whenEnabled (s.enc.encPh == .idle && encPending s.enc) s s.encEntry

/-- `ENC.EXIT` (R126): interrupt return. -/
def execEncExit (s : State) : Out := whenEnabled (s.enc.encPh == .decoded) s s.encReturn

/-- An edge of kind `k` sets its flag (R120). The pins are draws, so any edge may occur (log 13). -/
def encEdge (k : EdgeKind) (s : State) : Out :=
  .next (s.withEnc { s.enc with encIf := setEdgeFlag s.enc.encIf k })

/-- `ENC.EDGE A_FALL` (R120). -/
def execEncEdgeAFall (s : State) : Out := encEdge .aFall s

/-- `ENC.EDGE A_RISE` (R120). -/
def execEncEdgeARise (s : State) : Out := encEdge .aRise s

/-- `ENC.EDGE B_FALL` (R120). -/
def execEncEdgeBFall (s : State) : Out := encEdge .bFall s

/-- `ENC.EDGE B_RISE` (R120). -/
def execEncEdgeBRise (s : State) : Out := encEdge .bRise s

end Sys2Proof.Machine
end

