-- ==== Sys2Proof/Machine/FrameHandOff.lean ====
section
/-! DEFINITION. The host's frame hand-off operations (41_swap_chain.md R90 to R92). -/

namespace Sys2Proof.Machine

/-- `SC.ACQUIRE` (R90): a handle to a free index, or none available. The new handle's number is the
next one (log 14); `pick` is the draw that selects the index (log 11). -/
def execScAcquire (pick : Buf) (s : State) : Out :=
  match BufSet.choose s.swap.free pick with
  | none => .next (s.answer (.acquired none))
  | some i =>
    .next (((s.withSwap (s.swap.take i)).grantHandle i).answer (.acquired (some s.handles.length)))

/-- `SC.PRESENT h` (R91): a second present is a no-op; a dropped handle is refused (R170). -/
def execScPresent (h : Nat) (s : State) : Out :=
  match s.handle? h with
  | none => .refused .handleNotHeld
  | some hd =>
    if hd.presented then .next s
    else .next ((s.withSwap (s.swap.publish hd.idx)).markPresented h hd)

/-- `SC.DROP h` (R92): gives an unpresented buffer back; the handle ceases to exist; a dropped
handle is refused (R170). -/
def execScDrop (h : Nat) (s : State) : Out :=
  match s.handle? h with
  | none => .refused .handleNotHeld
  | some hd =>
    if hd.presented then .next (s.endHandle h)
    else .next ((s.withSwap (s.swap.giveBack hd.idx)).endHandle h)

end Sys2Proof.Machine
end

