-- ==== Sys2Proof/Machine/FrameStore.lean ====
section
/-! DEFINITION. The frame store operations (40_frame_store_ops.md R80 to R85). -/

namespace Sys2Proof.Machine

/-- `set_raw` on buffer `b`: refused outside the raw range (R82). -/
def rawSet (b : Buf) (x y : Int) (c : Bool) (s : State) : Out :=
  match rawCoord? x y with
  | some (x', y') => .next (s.writePixel b x' y' c)
  | none => .refused .rawOutOfRange

/-- `get_raw` on buffer `b`: refused outside the raw range (R83). -/
def rawGet (b : Buf) (x y : Int) (s : State) : Out :=
  match rawCoord? x y with
  | some (x', y') => .next (s.answer (.pixel (s.readPixel b x' y')))
  | none => .refused .rawOutOfRange

/-- `FB.SET h, x, y, c` (R80): outside the logical area it is silently ignored. -/
def execFbSet (h : Nat) (x y : Int) (c : Bool) (s : State) : Out :=
  withLiveHandle h s fun b => if inLogicalArea x y then rawSet b x y c s else .next s

/-- `FB.GET h, x, y` (R81): outside the logical area it returns unlit. -/
def execFbGet (h : Nat) (x y : Int) (s : State) : Out :=
  withLiveHandle h s fun b => if inLogicalArea x y then rawGet b x y s else .next (s.answer (.pixel false))

/-- `FB.CLEAR h, c` (R84). -/
def execFbClear (h : Nat) (c : Bool) (s : State) : Out :=
  withLiveHandle h s fun b => .next (s.fillBuffer b (fillByte c))

/-- `FB.SET_RAW h, x, y, c` (R82). -/
def execFbSetRaw (h : Nat) (x y : Int) (c : Bool) (s : State) : Out :=
  withLiveHandle h s fun b => rawSet b x y c s

/-- `FB.GET_RAW h, x, y` (R83). -/
def execFbGetRaw (h : Nat) (x y : Int) (s : State) : Out :=
  withLiveHandle h s fun b => rawGet b x y s

end Sys2Proof.Machine
end

