-- ==== Sys2Proof/Machine/Scanner.lean ====
section
/-! DEFINITION. The display scanner's operations (42_display_scanner.md R100 to R113) and the two
swap-chain operations it executes as bodies (41_swap_chain.md R93, R94). -/

namespace Sys2Proof.Machine

/-- The scanner is at phase `p`. -/
def State.atPhase (s : State) (p : ScanPhase) : Bool := s.scan.ph == p

/-- `SCAN.REFRESH` (R100): the collect and the adoption are one step. -/
def execScanRefresh (s : State) : Out :=
  let (n, w) := s.swap.collect
  let adopted := match n with
    | some i => { s.scan with rel := s.scan.cur, cur := some i, ph := .release }
    | none => { s.scan with ph := .release }
  whenEnabled (s.atPhase .refresh) s ((s.withSwap w).withScan adopted)

/-- `SCAN.RELEASE` (R101): releases the previous buffer; idles while no buffer is in use. -/
def execScanRelease (s : State) : Out :=
  let w := match s.scan.rel with
    | some j => s.swap.release j
    | none => s.swap
  let next := match s.scan.cur with
    | none => ScanPhase.refresh
    | some _ => ScanPhase.pix
  whenEnabled (s.atPhase .release) s
    ((s.withSwap w).withScan { s.scan with rel := none, ph := next })

/-- The pixel bytes of a 48-byte line of class A or B, masked by `m` (R64). -/
def pixStream48 (s : State) (b : Buf) (m : Byte) : List Byte :=
  List.ofFn fun i : Fin 48 => byteTransform (s.readByte b (sliceOffset (columnOf s.scan.g) i)) m

/-- The pixel bytes of line 43 (R64). -/
def pixStream16 (s : State) (b : Buf) : List Byte :=
  List.ofFn fun i : Fin 16 => byteTransform (s.readByte b (lastSliceOffset i)) (Config.patternC i)

/-- Emission of one line's pixel bytes from the buffer in use, if the line has class `k`
(R102 to R104). -/
def pixLine (k : PatternClass) (bytes : Buf → List Byte) (s : State) : Out :=
  match s.scan.cur with
  | some b =>
    whenEnabled (s.atPhase .pix && classOf s.scan.g == k) s ((s.emitPix (bytes b)).toPhase .grid)
  | none => .next s

/-- `SCAN.PIX.A` (R102). -/
def execScanPixA (s : State) : Out := pixLine .a (fun b => pixStream48 s b Config.patternA) s

/-- `SCAN.PIX.B` (R103). -/
def execScanPixB (s : State) : Out := pixLine .b (fun b => pixStream48 s b Config.patternB) s

/-- `SCAN.PIX.C` (R104). -/
def execScanPixC (s : State) : Out := pixLine .c (pixStream16 s) s

/-- `SCAN.GRID` (R105). -/
def execScanGrid (s : State) : Out :=
  whenEnabled (s.atPhase .grid) s ((s.emitGrid (List.ofFn (gridByte s.scan.g))).toPhase .flush)

/-- `SCAN.FLUSH` (R106): the barrier of R52. -/
def execScanFlush (s : State) : Out :=
  whenEnabled (s.atPhase .flush && s.bus.pixq.isEmpty && s.bus.gridq.isEmpty) s (s.toPhase .waitwin)

/-- `SCAN.WAITWIN` (R107). -/
def execScanWaitwin (s : State) : Out :=
  whenEnabled (s.atPhase .waitwin && s.scan.tArm + Config.tWindow ≤ s.now) s (s.toPhase .blankOn)

/-- `SCAN.BLANK_ON` (R108). -/
def execScanBlankOn (s : State) : Out :=
  whenEnabled (s.atPhase .blankOn) s ((s.driveBlank false).stampCtl.toPhase .latchLo)

/-- `SCAN.LATCH_LO` (R109). -/
def execScanLatchLo (s : State) : Out :=
  whenEnabled (s.atPhase .latchLo && s.ctrlElapsed) s ((s.driveLatch false).stampCtl.toPhase .latchHi)

/-- `SCAN.LATCH_HI` (R110). -/
def execScanLatchHi (s : State) : Out :=
  whenEnabled (s.atPhase .latchHi && s.ctrlElapsed) s ((s.driveLatch true).stampCtl.toPhase .blankOff)

/-- `SCAN.BLANK_OFF` (R111). -/
def execScanBlankOff (s : State) : Out :=
  whenEnabled (s.atPhase .blankOff && s.ctrlElapsed) s ((s.driveBlank true).toPhase .arm)

/-- `SCAN.ARM` (R112). -/
def execScanArm (s : State) : Out :=
  whenEnabled (s.atPhase .arm) s ((s.withScan { s.scan with tArm := s.now }).toPhase .adv)

/-- `SCAN.ADV` (R113). -/
def execScanAdv (s : State) : Out :=
  whenEnabled (s.atPhase .adv) s
    ((s.withScan { s.scan with g := nextLine s.scan.g }).toPhase .refresh)

/-- `SC.COLLECT` (R93), on its own: takes `pending` and returns it (log 16). -/
def execScCollect (s : State) : Out :=
  let (n, w) := s.swap.collect
  .next ((s.withSwap w).answer (.collected n))

/-- `SC.RELEASE i` (R94), on its own (log 16). -/
def execScRelease (i : Buf) (s : State) : Out := .next (s.withSwap (s.swap.release i))

end Sys2Proof.Machine
end

