-- ==== Sys2Proof/Machine/SerialBus.lean ====
section
/-! DEFINITION. Delivery and loss of the serial bytes, agent ENV (42_display_scanner.md R114, R115). -/

namespace Sys2Proof.Machine

/-- `BUS.DELIVER PIXBUS` (R114). -/
def execBusDeliverPix (s : State) : Out :=
  match s.bus.pixq with
  | b :: rest => .next ((s.withBus { s.bus with pixq := rest }).emitEvent (.pix b))
  | [] => .next s

/-- `BUS.DELIVER GRIDBUS` (R114). -/
def execBusDeliverGrid (s : State) : Out :=
  match s.bus.gridq with
  | b :: rest => .next ((s.withBus { s.bus with gridq := rest }).emitEvent (.grid b))
  | [] => .next s

/-- `BUS.DROP PIXBUS` (R115): the byte is lost and nothing records it (log 12). -/
def execBusDropPix (s : State) : Out :=
  match s.bus.pixq with
  | _ :: rest => .next (s.withBus { s.bus with pixq := rest })
  | [] => .next s

/-- `BUS.DROP GRIDBUS` (R115): the byte is lost and nothing records it (log 12). -/
def execBusDropGrid (s : State) : Out :=
  match s.bus.gridq with
  | _ :: rest => .next (s.withBus { s.bus with gridq := rest })
  | [] => .next s

end Sys2Proof.Machine
end

