-- ==== Sys2Proof/Machine/Dispatch.lean ====
section
/-! DEFINITION. The meaning of every operation: one arm per constructor of Instr. -/

namespace Sys2Proof.Machine

def exec (i : Instr) (s : State) : Host.Outcome State Fault Refusal :=
  match i with
  | .scanRefresh => Sys2Proof.Machine.execScanRefresh s
  | .scanRelease => Sys2Proof.Machine.execScanRelease s
  | .scanPixA => Sys2Proof.Machine.execScanPixA s
  | .scanPixB => Sys2Proof.Machine.execScanPixB s
  | .scanPixC => Sys2Proof.Machine.execScanPixC s
  | .scanGrid => Sys2Proof.Machine.execScanGrid s
  | .scanFlush => Sys2Proof.Machine.execScanFlush s
  | .scanWaitwin => Sys2Proof.Machine.execScanWaitwin s
  | .scanBlankOn => Sys2Proof.Machine.execScanBlankOn s
  | .scanLatchLo => Sys2Proof.Machine.execScanLatchLo s
  | .scanLatchHi => Sys2Proof.Machine.execScanLatchHi s
  | .scanBlankOff => Sys2Proof.Machine.execScanBlankOff s
  | .scanArm => Sys2Proof.Machine.execScanArm s
  | .scanAdv => Sys2Proof.Machine.execScanAdv s
  | .scCollect => Sys2Proof.Machine.execScCollect s
  | .scRelease buf => Sys2Proof.Machine.execScRelease buf s
  | .busDeliverPix => Sys2Proof.Machine.execBusDeliverPix s
  | .busDeliverGrid => Sys2Proof.Machine.execBusDeliverGrid s
  | .busDropPix => Sys2Proof.Machine.execBusDropPix s
  | .busDropGrid => Sys2Proof.Machine.execBusDropGrid s
  | .encTHold0000 => Sys2Proof.Machine.execEncTHold0000 s
  | .encTInc0001 => Sys2Proof.Machine.execEncTInc0001 s
  | .encTDec0010 => Sys2Proof.Machine.execEncTDec0010 s
  | .encTRej0011 => Sys2Proof.Machine.execEncTRej0011 s
  | .encTDec0100 => Sys2Proof.Machine.execEncTDec0100 s
  | .encTHold0101 => Sys2Proof.Machine.execEncTHold0101 s
  | .encTRej0110 => Sys2Proof.Machine.execEncTRej0110 s
  | .encTInc0111 => Sys2Proof.Machine.execEncTInc0111 s
  | .encTInc1000 => Sys2Proof.Machine.execEncTInc1000 s
  | .encTRej1001 => Sys2Proof.Machine.execEncTRej1001 s
  | .encTHold1010 => Sys2Proof.Machine.execEncTHold1010 s
  | .encTDec1011 => Sys2Proof.Machine.execEncTDec1011 s
  | .encTRej1100 => Sys2Proof.Machine.execEncTRej1100 s
  | .encTDec1101 => Sys2Proof.Machine.execEncTDec1101 s
  | .encTInc1110 => Sys2Proof.Machine.execEncTInc1110 s
  | .encTHold1111 => Sys2Proof.Machine.execEncTHold1111 s
  | .encEnter => Sys2Proof.Machine.execEncEnter s
  | .encExit => Sys2Proof.Machine.execEncExit s
  | .encEdgeAFall => Sys2Proof.Machine.execEncEdgeAFall s
  | .encEdgeARise => Sys2Proof.Machine.execEncEdgeARise s
  | .encEdgeBFall => Sys2Proof.Machine.execEncEdgeBFall s
  | .encEdgeBRise => Sys2Proof.Machine.execEncEdgeBRise s
  | .btnScanCol0 r0 r1 => Sys2Proof.Machine.execBtnScanCol0 r0 r1 s
  | .btnScanCol1 r0 r1 => Sys2Proof.Machine.execBtnScanCol1 r0 r1 s
  | .btnFire => Sys2Proof.Machine.execBtnFire s
  | .fbSet h x y c => Sys2Proof.Machine.execFbSet h x y c s
  | .fbGet h x y => Sys2Proof.Machine.execFbGet h x y s
  | .fbClear h c => Sys2Proof.Machine.execFbClear h c s
  | .fbSetRaw h x y c => Sys2Proof.Machine.execFbSetRaw h x y c s
  | .fbGetRaw h x y => Sys2Proof.Machine.execFbGetRaw h x y s
  | .scAcquire pick => Sys2Proof.Machine.execScAcquire pick s
  | .scPresent h => Sys2Proof.Machine.execScPresent h s
  | .scDrop h => Sys2Proof.Machine.execScDrop h s
  | .aggUpdate => Sys2Proof.Machine.execAggUpdate s
  | .aggEnc => Sys2Proof.Machine.execAggEnc s
  | .aggBtn => Sys2Proof.Machine.execAggBtn s

end Sys2Proof.Machine
end

