-- ==== Sys2Proof/Machine/Fetch.lean ====
section
/-! DEFINITION. What a step takes from the agenda. The core fetches no instructions (R55): the
agenda stands for the choices the spec leaves open, which agent moves next, when, with which
operands and draws (R37, R174, R199; log 2). -/

namespace Sys2Proof.Machine

/-- What stands at the head of the agenda. -/
inductive Fetched where
  /-- Nothing: no agent moves (any agent may delay, R185). -/
  | nothing
  /-- The model gives the step no meaning. -/
  | refuse (r : Refusal)
  /-- The operation `i`, to be taken in the state `s`. -/
  | run (i : Instr) (s : State)
  deriving Repr

/-- The state in which the head of the agenda is taken: the entry is used up and `now` is its
instant; time never decreases, so an instant that has passed is taken now (R197, log 4). -/
def State.arrive (s : State) (slot : Slot) (rest : List Slot) : State :=
  { s with now := max s.now slot.time, agenda := rest }

/-- The operation the machine takes next. -/
def fetch (s : State) : Fetched :=
  match s.agenda with
  | [] => .nothing
  | slot :: rest =>
    if s.indexTwice then .refuse .unreachableState
    else
      match decode slot.bytes with
      | .ok (i, _) => .run i (s.arrive slot rest)
      | .error e => .refuse (.undecodable e)

/-- Puts the operation with these bytes at the head of the agenda, at the present instant. -/
def State.pushRecord (s : State) (bytes : List Byte) : State :=
  { s with agenda := { time := s.now, bytes := bytes } :: s.agenda }

end Sys2Proof.Machine
end

