-- ==== Sys2Proof/Machine/Step.lean ====
section
/-! DEFINITION. One step of the machine, and the placing of an operation where the step takes it. -/

namespace Sys2Proof.Machine

/-- One step: the operation at the head of the agenda, by the agent it belongs to (R49). -/
def step (s : State) : Host.Outcome State Fault Refusal :=
  match fetch s with
  | .nothing => .next s
  | .refuse r => .refused r
  | .run i s' => exec i s'

/-- The state in which the very next step takes the operation whose bits are `w` (log 2). -/
def State.withFetchWord (s : State) (nbits w : Nat) : State := s.pushRecord (tableBytes nbits w)

end Sys2Proof.Machine
end

