-- ==== Sys2Proof/Laws/State.lean ====
section
/-! SUPPORT. One lemma per field per update of the state, each true by rfl: no proof unfolds a record
update. -/

namespace Sys2Proof.Machine

/-! `withScan` -/

@[simp] theorem State.withScan_scan (s : State) (x : Scanner) : (s.withScan x).scan = x := rfl
@[simp] theorem State.withScan_bus (s : State) (x : Scanner) : (s.withScan x).bus = s.bus := rfl
@[simp] theorem State.withScan_swap (s : State) (x : Scanner) : (s.withScan x).swap = s.swap := rfl
@[simp] theorem State.withScan_enc (s : State) (x : Scanner) : (s.withScan x).enc = s.enc := rfl
@[simp] theorem State.withScan_btn (s : State) (x : Scanner) : (s.withScan x).btn = s.btn := rfl
@[simp] theorem State.withScan_fs (s : State) (x : Scanner) : (s.withScan x).fs = s.fs := rfl
@[simp] theorem State.withScan_agg (s : State) (x : Scanner) : (s.withScan x).agg = s.agg := rfl
@[simp] theorem State.withScan_handles (s : State) (x : Scanner) : (s.withScan x).handles = s.handles := rfl
@[simp] theorem State.withScan_now (s : State) (x : Scanner) : (s.withScan x).now = s.now := rfl
@[simp] theorem State.withScan_trace (s : State) (x : Scanner) : (s.withScan x).trace = s.trace := rfl
@[simp] theorem State.withScan_results (s : State) (x : Scanner) : (s.withScan x).results = s.results := rfl
@[simp] theorem State.withScan_agenda (s : State) (x : Scanner) : (s.withScan x).agenda = s.agenda := rfl

/-! `withBus` -/

@[simp] theorem State.withBus_scan (s : State) (x : Buses) : (s.withBus x).scan = s.scan := rfl
@[simp] theorem State.withBus_bus (s : State) (x : Buses) : (s.withBus x).bus = x := rfl
@[simp] theorem State.withBus_swap (s : State) (x : Buses) : (s.withBus x).swap = s.swap := rfl
@[simp] theorem State.withBus_enc (s : State) (x : Buses) : (s.withBus x).enc = s.enc := rfl
@[simp] theorem State.withBus_btn (s : State) (x : Buses) : (s.withBus x).btn = s.btn := rfl
@[simp] theorem State.withBus_fs (s : State) (x : Buses) : (s.withBus x).fs = s.fs := rfl
@[simp] theorem State.withBus_agg (s : State) (x : Buses) : (s.withBus x).agg = s.agg := rfl
@[simp] theorem State.withBus_handles (s : State) (x : Buses) : (s.withBus x).handles = s.handles := rfl
@[simp] theorem State.withBus_now (s : State) (x : Buses) : (s.withBus x).now = s.now := rfl
@[simp] theorem State.withBus_trace (s : State) (x : Buses) : (s.withBus x).trace = s.trace := rfl
@[simp] theorem State.withBus_results (s : State) (x : Buses) : (s.withBus x).results = s.results := rfl
@[simp] theorem State.withBus_agenda (s : State) (x : Buses) : (s.withBus x).agenda = s.agenda := rfl

/-! `withSwap` -/

@[simp] theorem State.withSwap_scan (s : State) (x : SwapChain) : (s.withSwap x).scan = s.scan := rfl
@[simp] theorem State.withSwap_bus (s : State) (x : SwapChain) : (s.withSwap x).bus = s.bus := rfl
@[simp] theorem State.withSwap_swap (s : State) (x : SwapChain) : (s.withSwap x).swap = x := rfl
@[simp] theorem State.withSwap_enc (s : State) (x : SwapChain) : (s.withSwap x).enc = s.enc := rfl
@[simp] theorem State.withSwap_btn (s : State) (x : SwapChain) : (s.withSwap x).btn = s.btn := rfl
@[simp] theorem State.withSwap_fs (s : State) (x : SwapChain) : (s.withSwap x).fs = s.fs := rfl
@[simp] theorem State.withSwap_agg (s : State) (x : SwapChain) : (s.withSwap x).agg = s.agg := rfl
@[simp] theorem State.withSwap_handles (s : State) (x : SwapChain) : (s.withSwap x).handles = s.handles := rfl
@[simp] theorem State.withSwap_now (s : State) (x : SwapChain) : (s.withSwap x).now = s.now := rfl
@[simp] theorem State.withSwap_trace (s : State) (x : SwapChain) : (s.withSwap x).trace = s.trace := rfl
@[simp] theorem State.withSwap_results (s : State) (x : SwapChain) : (s.withSwap x).results = s.results := rfl
@[simp] theorem State.withSwap_agenda (s : State) (x : SwapChain) : (s.withSwap x).agenda = s.agenda := rfl

/-! `withEnc` -/

@[simp] theorem State.withEnc_scan (s : State) (x : Encoder) : (s.withEnc x).scan = s.scan := rfl
@[simp] theorem State.withEnc_bus (s : State) (x : Encoder) : (s.withEnc x).bus = s.bus := rfl
@[simp] theorem State.withEnc_swap (s : State) (x : Encoder) : (s.withEnc x).swap = s.swap := rfl
@[simp] theorem State.withEnc_enc (s : State) (x : Encoder) : (s.withEnc x).enc = x := rfl
@[simp] theorem State.withEnc_btn (s : State) (x : Encoder) : (s.withEnc x).btn = s.btn := rfl
@[simp] theorem State.withEnc_fs (s : State) (x : Encoder) : (s.withEnc x).fs = s.fs := rfl
@[simp] theorem State.withEnc_agg (s : State) (x : Encoder) : (s.withEnc x).agg = s.agg := rfl
@[simp] theorem State.withEnc_handles (s : State) (x : Encoder) : (s.withEnc x).handles = s.handles := rfl
@[simp] theorem State.withEnc_now (s : State) (x : Encoder) : (s.withEnc x).now = s.now := rfl
@[simp] theorem State.withEnc_trace (s : State) (x : Encoder) : (s.withEnc x).trace = s.trace := rfl
@[simp] theorem State.withEnc_results (s : State) (x : Encoder) : (s.withEnc x).results = s.results := rfl
@[simp] theorem State.withEnc_agenda (s : State) (x : Encoder) : (s.withEnc x).agenda = s.agenda := rfl

/-! `withBtn` -/

@[simp] theorem State.withBtn_scan (s : State) (x : Buttons) : (s.withBtn x).scan = s.scan := rfl
@[simp] theorem State.withBtn_bus (s : State) (x : Buttons) : (s.withBtn x).bus = s.bus := rfl
@[simp] theorem State.withBtn_swap (s : State) (x : Buttons) : (s.withBtn x).swap = s.swap := rfl
@[simp] theorem State.withBtn_enc (s : State) (x : Buttons) : (s.withBtn x).enc = s.enc := rfl
@[simp] theorem State.withBtn_btn (s : State) (x : Buttons) : (s.withBtn x).btn = x := rfl
@[simp] theorem State.withBtn_fs (s : State) (x : Buttons) : (s.withBtn x).fs = s.fs := rfl
@[simp] theorem State.withBtn_agg (s : State) (x : Buttons) : (s.withBtn x).agg = s.agg := rfl
@[simp] theorem State.withBtn_handles (s : State) (x : Buttons) : (s.withBtn x).handles = s.handles := rfl
@[simp] theorem State.withBtn_now (s : State) (x : Buttons) : (s.withBtn x).now = s.now := rfl
@[simp] theorem State.withBtn_trace (s : State) (x : Buttons) : (s.withBtn x).trace = s.trace := rfl
@[simp] theorem State.withBtn_results (s : State) (x : Buttons) : (s.withBtn x).results = s.results := rfl
@[simp] theorem State.withBtn_agenda (s : State) (x : Buttons) : (s.withBtn x).agenda = s.agenda := rfl

/-! `withFs` -/

@[simp] theorem State.withFs_scan (s : State) (x : List Host.Cell) : (s.withFs x).scan = s.scan := rfl
@[simp] theorem State.withFs_bus (s : State) (x : List Host.Cell) : (s.withFs x).bus = s.bus := rfl
@[simp] theorem State.withFs_swap (s : State) (x : List Host.Cell) : (s.withFs x).swap = s.swap := rfl
@[simp] theorem State.withFs_enc (s : State) (x : List Host.Cell) : (s.withFs x).enc = s.enc := rfl
@[simp] theorem State.withFs_btn (s : State) (x : List Host.Cell) : (s.withFs x).btn = s.btn := rfl
@[simp] theorem State.withFs_fs (s : State) (x : List Host.Cell) : (s.withFs x).fs = x := rfl
@[simp] theorem State.withFs_agg (s : State) (x : List Host.Cell) : (s.withFs x).agg = s.agg := rfl
@[simp] theorem State.withFs_handles (s : State) (x : List Host.Cell) : (s.withFs x).handles = s.handles := rfl
@[simp] theorem State.withFs_now (s : State) (x : List Host.Cell) : (s.withFs x).now = s.now := rfl
@[simp] theorem State.withFs_trace (s : State) (x : List Host.Cell) : (s.withFs x).trace = s.trace := rfl
@[simp] theorem State.withFs_results (s : State) (x : List Host.Cell) : (s.withFs x).results = s.results := rfl
@[simp] theorem State.withFs_agenda (s : State) (x : List Host.Cell) : (s.withFs x).agenda = s.agenda := rfl

/-! `withAgg` -/

@[simp] theorem State.withAgg_scan (s : State) (x : Aggregator) : (s.withAgg x).scan = s.scan := rfl
@[simp] theorem State.withAgg_bus (s : State) (x : Aggregator) : (s.withAgg x).bus = s.bus := rfl
@[simp] theorem State.withAgg_swap (s : State) (x : Aggregator) : (s.withAgg x).swap = s.swap := rfl
@[simp] theorem State.withAgg_enc (s : State) (x : Aggregator) : (s.withAgg x).enc = s.enc := rfl
@[simp] theorem State.withAgg_btn (s : State) (x : Aggregator) : (s.withAgg x).btn = s.btn := rfl
@[simp] theorem State.withAgg_fs (s : State) (x : Aggregator) : (s.withAgg x).fs = s.fs := rfl
@[simp] theorem State.withAgg_agg (s : State) (x : Aggregator) : (s.withAgg x).agg = x := rfl
@[simp] theorem State.withAgg_handles (s : State) (x : Aggregator) : (s.withAgg x).handles = s.handles := rfl
@[simp] theorem State.withAgg_now (s : State) (x : Aggregator) : (s.withAgg x).now = s.now := rfl
@[simp] theorem State.withAgg_trace (s : State) (x : Aggregator) : (s.withAgg x).trace = s.trace := rfl
@[simp] theorem State.withAgg_results (s : State) (x : Aggregator) : (s.withAgg x).results = s.results := rfl
@[simp] theorem State.withAgg_agenda (s : State) (x : Aggregator) : (s.withAgg x).agenda = s.agenda := rfl

/-! `withHandles` -/

@[simp] theorem State.withHandles_scan (s : State) (x : List (Option Handle)) : (s.withHandles x).scan = s.scan := rfl
@[simp] theorem State.withHandles_bus (s : State) (x : List (Option Handle)) : (s.withHandles x).bus = s.bus := rfl
@[simp] theorem State.withHandles_swap (s : State) (x : List (Option Handle)) : (s.withHandles x).swap = s.swap := rfl
@[simp] theorem State.withHandles_enc (s : State) (x : List (Option Handle)) : (s.withHandles x).enc = s.enc := rfl
@[simp] theorem State.withHandles_btn (s : State) (x : List (Option Handle)) : (s.withHandles x).btn = s.btn := rfl
@[simp] theorem State.withHandles_fs (s : State) (x : List (Option Handle)) : (s.withHandles x).fs = s.fs := rfl
@[simp] theorem State.withHandles_agg (s : State) (x : List (Option Handle)) : (s.withHandles x).agg = s.agg := rfl
@[simp] theorem State.withHandles_handles (s : State) (x : List (Option Handle)) : (s.withHandles x).handles = x := rfl
@[simp] theorem State.withHandles_now (s : State) (x : List (Option Handle)) : (s.withHandles x).now = s.now := rfl
@[simp] theorem State.withHandles_trace (s : State) (x : List (Option Handle)) : (s.withHandles x).trace = s.trace := rfl
@[simp] theorem State.withHandles_results (s : State) (x : List (Option Handle)) : (s.withHandles x).results = s.results := rfl
@[simp] theorem State.withHandles_agenda (s : State) (x : List (Option Handle)) : (s.withHandles x).agenda = s.agenda := rfl

/-! `withNow` -/

@[simp] theorem State.withNow_scan (s : State) (x : Time) : (s.withNow x).scan = s.scan := rfl
@[simp] theorem State.withNow_bus (s : State) (x : Time) : (s.withNow x).bus = s.bus := rfl
@[simp] theorem State.withNow_swap (s : State) (x : Time) : (s.withNow x).swap = s.swap := rfl
@[simp] theorem State.withNow_enc (s : State) (x : Time) : (s.withNow x).enc = s.enc := rfl
@[simp] theorem State.withNow_btn (s : State) (x : Time) : (s.withNow x).btn = s.btn := rfl
@[simp] theorem State.withNow_fs (s : State) (x : Time) : (s.withNow x).fs = s.fs := rfl
@[simp] theorem State.withNow_agg (s : State) (x : Time) : (s.withNow x).agg = s.agg := rfl
@[simp] theorem State.withNow_handles (s : State) (x : Time) : (s.withNow x).handles = s.handles := rfl
@[simp] theorem State.withNow_now (s : State) (x : Time) : (s.withNow x).now = x := rfl
@[simp] theorem State.withNow_trace (s : State) (x : Time) : (s.withNow x).trace = s.trace := rfl
@[simp] theorem State.withNow_results (s : State) (x : Time) : (s.withNow x).results = s.results := rfl
@[simp] theorem State.withNow_agenda (s : State) (x : Time) : (s.withNow x).agenda = s.agenda := rfl

/-! `withAgenda` -/

@[simp] theorem State.withAgenda_scan (s : State) (x : List Slot) : (s.withAgenda x).scan = s.scan := rfl
@[simp] theorem State.withAgenda_bus (s : State) (x : List Slot) : (s.withAgenda x).bus = s.bus := rfl
@[simp] theorem State.withAgenda_swap (s : State) (x : List Slot) : (s.withAgenda x).swap = s.swap := rfl
@[simp] theorem State.withAgenda_enc (s : State) (x : List Slot) : (s.withAgenda x).enc = s.enc := rfl
@[simp] theorem State.withAgenda_btn (s : State) (x : List Slot) : (s.withAgenda x).btn = s.btn := rfl
@[simp] theorem State.withAgenda_fs (s : State) (x : List Slot) : (s.withAgenda x).fs = s.fs := rfl
@[simp] theorem State.withAgenda_agg (s : State) (x : List Slot) : (s.withAgenda x).agg = s.agg := rfl
@[simp] theorem State.withAgenda_handles (s : State) (x : List Slot) : (s.withAgenda x).handles = s.handles := rfl
@[simp] theorem State.withAgenda_now (s : State) (x : List Slot) : (s.withAgenda x).now = s.now := rfl
@[simp] theorem State.withAgenda_trace (s : State) (x : List Slot) : (s.withAgenda x).trace = s.trace := rfl
@[simp] theorem State.withAgenda_results (s : State) (x : List Slot) : (s.withAgenda x).results = s.results := rfl
@[simp] theorem State.withAgenda_agenda (s : State) (x : List Slot) : (s.withAgenda x).agenda = x := rfl

/-! `emitEvent` -/

@[simp] theorem State.emitEvent_scan (s : State) (e : Event) : (s.emitEvent e).scan = s.scan := rfl
@[simp] theorem State.emitEvent_bus (s : State) (e : Event) : (s.emitEvent e).bus = s.bus := rfl
@[simp] theorem State.emitEvent_swap (s : State) (e : Event) : (s.emitEvent e).swap = s.swap := rfl
@[simp] theorem State.emitEvent_enc (s : State) (e : Event) : (s.emitEvent e).enc = s.enc := rfl
@[simp] theorem State.emitEvent_btn (s : State) (e : Event) : (s.emitEvent e).btn = s.btn := rfl
@[simp] theorem State.emitEvent_fs (s : State) (e : Event) : (s.emitEvent e).fs = s.fs := rfl
@[simp] theorem State.emitEvent_agg (s : State) (e : Event) : (s.emitEvent e).agg = s.agg := rfl
@[simp] theorem State.emitEvent_handles (s : State) (e : Event) : (s.emitEvent e).handles = s.handles := rfl
@[simp] theorem State.emitEvent_now (s : State) (e : Event) : (s.emitEvent e).now = s.now := rfl
@[simp] theorem State.emitEvent_trace (s : State) (e : Event) : (s.emitEvent e).trace = s.trace ++ [{ time := s.now, event := e }] := rfl
@[simp] theorem State.emitEvent_results (s : State) (e : Event) : (s.emitEvent e).results = s.results := rfl
@[simp] theorem State.emitEvent_agenda (s : State) (e : Event) : (s.emitEvent e).agenda = s.agenda := rfl

/-! `answer` -/

@[simp] theorem State.answer_scan (s : State) (r : Result) : (s.answer r).scan = s.scan := rfl
@[simp] theorem State.answer_bus (s : State) (r : Result) : (s.answer r).bus = s.bus := rfl
@[simp] theorem State.answer_swap (s : State) (r : Result) : (s.answer r).swap = s.swap := rfl
@[simp] theorem State.answer_enc (s : State) (r : Result) : (s.answer r).enc = s.enc := rfl
@[simp] theorem State.answer_btn (s : State) (r : Result) : (s.answer r).btn = s.btn := rfl
@[simp] theorem State.answer_fs (s : State) (r : Result) : (s.answer r).fs = s.fs := rfl
@[simp] theorem State.answer_agg (s : State) (r : Result) : (s.answer r).agg = s.agg := rfl
@[simp] theorem State.answer_handles (s : State) (r : Result) : (s.answer r).handles = s.handles := rfl
@[simp] theorem State.answer_now (s : State) (r : Result) : (s.answer r).now = s.now := rfl
@[simp] theorem State.answer_trace (s : State) (r : Result) : (s.answer r).trace = s.trace := rfl
@[simp] theorem State.answer_results (s : State) (r : Result) : (s.answer r).results = s.results ++ [r] := rfl
@[simp] theorem State.answer_agenda (s : State) (r : Result) : (s.answer r).agenda = s.agenda := rfl

/-! `arrive` -/

@[simp] theorem State.arrive_scan (s : State) (slot : Slot) (rest : List Slot) : (s.arrive slot rest).scan = s.scan := rfl
@[simp] theorem State.arrive_bus (s : State) (slot : Slot) (rest : List Slot) : (s.arrive slot rest).bus = s.bus := rfl
@[simp] theorem State.arrive_swap (s : State) (slot : Slot) (rest : List Slot) : (s.arrive slot rest).swap = s.swap := rfl
@[simp] theorem State.arrive_enc (s : State) (slot : Slot) (rest : List Slot) : (s.arrive slot rest).enc = s.enc := rfl
@[simp] theorem State.arrive_btn (s : State) (slot : Slot) (rest : List Slot) : (s.arrive slot rest).btn = s.btn := rfl
@[simp] theorem State.arrive_fs (s : State) (slot : Slot) (rest : List Slot) : (s.arrive slot rest).fs = s.fs := rfl
@[simp] theorem State.arrive_agg (s : State) (slot : Slot) (rest : List Slot) : (s.arrive slot rest).agg = s.agg := rfl
@[simp] theorem State.arrive_handles (s : State) (slot : Slot) (rest : List Slot) : (s.arrive slot rest).handles = s.handles := rfl
@[simp] theorem State.arrive_now (s : State) (slot : Slot) (rest : List Slot) : (s.arrive slot rest).now = max s.now slot.time := rfl
@[simp] theorem State.arrive_trace (s : State) (slot : Slot) (rest : List Slot) : (s.arrive slot rest).trace = s.trace := rfl
@[simp] theorem State.arrive_results (s : State) (slot : Slot) (rest : List Slot) : (s.arrive slot rest).results = s.results := rfl
@[simp] theorem State.arrive_agenda (s : State) (slot : Slot) (rest : List Slot) : (s.arrive slot rest).agenda = rest := rfl

/-! `toPhase` -/

@[simp] theorem State.toPhase_scan (s : State) (p : ScanPhase) : (s.toPhase p).scan = { s.scan with ph := p } := rfl
@[simp] theorem State.toPhase_bus (s : State) (p : ScanPhase) : (s.toPhase p).bus = s.bus := rfl
@[simp] theorem State.toPhase_swap (s : State) (p : ScanPhase) : (s.toPhase p).swap = s.swap := rfl
@[simp] theorem State.toPhase_enc (s : State) (p : ScanPhase) : (s.toPhase p).enc = s.enc := rfl
@[simp] theorem State.toPhase_btn (s : State) (p : ScanPhase) : (s.toPhase p).btn = s.btn := rfl
@[simp] theorem State.toPhase_fs (s : State) (p : ScanPhase) : (s.toPhase p).fs = s.fs := rfl
@[simp] theorem State.toPhase_agg (s : State) (p : ScanPhase) : (s.toPhase p).agg = s.agg := rfl
@[simp] theorem State.toPhase_handles (s : State) (p : ScanPhase) : (s.toPhase p).handles = s.handles := rfl
@[simp] theorem State.toPhase_now (s : State) (p : ScanPhase) : (s.toPhase p).now = s.now := rfl
@[simp] theorem State.toPhase_trace (s : State) (p : ScanPhase) : (s.toPhase p).trace = s.trace := rfl
@[simp] theorem State.toPhase_results (s : State) (p : ScanPhase) : (s.toPhase p).results = s.results := rfl
@[simp] theorem State.toPhase_agenda (s : State) (p : ScanPhase) : (s.toPhase p).agenda = s.agenda := rfl

/-! `driveBlank` -/

@[simp] theorem State.driveBlank_scan (s : State) (v : Level) : (s.driveBlank v).scan = { s.scan with blank := #v[v, v] } := rfl
@[simp] theorem State.driveBlank_bus (s : State) (v : Level) : (s.driveBlank v).bus = s.bus := rfl
@[simp] theorem State.driveBlank_swap (s : State) (v : Level) : (s.driveBlank v).swap = s.swap := rfl
@[simp] theorem State.driveBlank_enc (s : State) (v : Level) : (s.driveBlank v).enc = s.enc := rfl
@[simp] theorem State.driveBlank_btn (s : State) (v : Level) : (s.driveBlank v).btn = s.btn := rfl
@[simp] theorem State.driveBlank_fs (s : State) (v : Level) : (s.driveBlank v).fs = s.fs := rfl
@[simp] theorem State.driveBlank_agg (s : State) (v : Level) : (s.driveBlank v).agg = s.agg := rfl
@[simp] theorem State.driveBlank_handles (s : State) (v : Level) : (s.driveBlank v).handles = s.handles := rfl
@[simp] theorem State.driveBlank_now (s : State) (v : Level) : (s.driveBlank v).now = s.now := rfl
@[simp] theorem State.driveBlank_trace (s : State) (v : Level) : (s.driveBlank v).trace = s.trace ++ [{ time := s.now, event := .pins .blank v v }] := rfl
@[simp] theorem State.driveBlank_results (s : State) (v : Level) : (s.driveBlank v).results = s.results := rfl
@[simp] theorem State.driveBlank_agenda (s : State) (v : Level) : (s.driveBlank v).agenda = s.agenda := rfl

/-! `driveLatch` -/

@[simp] theorem State.driveLatch_scan (s : State) (v : Level) : (s.driveLatch v).scan = { s.scan with latch := #v[v, v] } := rfl
@[simp] theorem State.driveLatch_bus (s : State) (v : Level) : (s.driveLatch v).bus = s.bus := rfl
@[simp] theorem State.driveLatch_swap (s : State) (v : Level) : (s.driveLatch v).swap = s.swap := rfl
@[simp] theorem State.driveLatch_enc (s : State) (v : Level) : (s.driveLatch v).enc = s.enc := rfl
@[simp] theorem State.driveLatch_btn (s : State) (v : Level) : (s.driveLatch v).btn = s.btn := rfl
@[simp] theorem State.driveLatch_fs (s : State) (v : Level) : (s.driveLatch v).fs = s.fs := rfl
@[simp] theorem State.driveLatch_agg (s : State) (v : Level) : (s.driveLatch v).agg = s.agg := rfl
@[simp] theorem State.driveLatch_handles (s : State) (v : Level) : (s.driveLatch v).handles = s.handles := rfl
@[simp] theorem State.driveLatch_now (s : State) (v : Level) : (s.driveLatch v).now = s.now := rfl
@[simp] theorem State.driveLatch_trace (s : State) (v : Level) : (s.driveLatch v).trace = s.trace ++ [{ time := s.now, event := .pins .latch v v }] := rfl
@[simp] theorem State.driveLatch_results (s : State) (v : Level) : (s.driveLatch v).results = s.results := rfl
@[simp] theorem State.driveLatch_agenda (s : State) (v : Level) : (s.driveLatch v).agenda = s.agenda := rfl

/-! `stampCtl` -/

@[simp] theorem State.stampCtl_scan (s : State) : (s.stampCtl).scan = { s.scan with tCtl := s.now } := rfl
@[simp] theorem State.stampCtl_bus (s : State) : (s.stampCtl).bus = s.bus := rfl
@[simp] theorem State.stampCtl_swap (s : State) : (s.stampCtl).swap = s.swap := rfl
@[simp] theorem State.stampCtl_enc (s : State) : (s.stampCtl).enc = s.enc := rfl
@[simp] theorem State.stampCtl_btn (s : State) : (s.stampCtl).btn = s.btn := rfl
@[simp] theorem State.stampCtl_fs (s : State) : (s.stampCtl).fs = s.fs := rfl
@[simp] theorem State.stampCtl_agg (s : State) : (s.stampCtl).agg = s.agg := rfl
@[simp] theorem State.stampCtl_handles (s : State) : (s.stampCtl).handles = s.handles := rfl
@[simp] theorem State.stampCtl_now (s : State) : (s.stampCtl).now = s.now := rfl
@[simp] theorem State.stampCtl_trace (s : State) : (s.stampCtl).trace = s.trace := rfl
@[simp] theorem State.stampCtl_results (s : State) : (s.stampCtl).results = s.results := rfl
@[simp] theorem State.stampCtl_agenda (s : State) : (s.stampCtl).agenda = s.agenda := rfl

/-! `emitPix` -/

@[simp] theorem State.emitPix_scan (s : State) (bs : List Byte) : (s.emitPix bs).scan = s.scan := rfl
@[simp] theorem State.emitPix_bus (s : State) (bs : List Byte) : (s.emitPix bs).bus = { s.bus with pixq := s.bus.pixq ++ bs } := rfl
@[simp] theorem State.emitPix_swap (s : State) (bs : List Byte) : (s.emitPix bs).swap = s.swap := rfl
@[simp] theorem State.emitPix_enc (s : State) (bs : List Byte) : (s.emitPix bs).enc = s.enc := rfl
@[simp] theorem State.emitPix_btn (s : State) (bs : List Byte) : (s.emitPix bs).btn = s.btn := rfl
@[simp] theorem State.emitPix_fs (s : State) (bs : List Byte) : (s.emitPix bs).fs = s.fs := rfl
@[simp] theorem State.emitPix_agg (s : State) (bs : List Byte) : (s.emitPix bs).agg = s.agg := rfl
@[simp] theorem State.emitPix_handles (s : State) (bs : List Byte) : (s.emitPix bs).handles = s.handles := rfl
@[simp] theorem State.emitPix_now (s : State) (bs : List Byte) : (s.emitPix bs).now = s.now := rfl
@[simp] theorem State.emitPix_trace (s : State) (bs : List Byte) : (s.emitPix bs).trace = s.trace := rfl
@[simp] theorem State.emitPix_results (s : State) (bs : List Byte) : (s.emitPix bs).results = s.results := rfl
@[simp] theorem State.emitPix_agenda (s : State) (bs : List Byte) : (s.emitPix bs).agenda = s.agenda := rfl

/-! `emitGrid` -/

@[simp] theorem State.emitGrid_scan (s : State) (bs : List Byte) : (s.emitGrid bs).scan = s.scan := rfl
@[simp] theorem State.emitGrid_bus (s : State) (bs : List Byte) : (s.emitGrid bs).bus = { s.bus with gridq := s.bus.gridq ++ bs } := rfl
@[simp] theorem State.emitGrid_swap (s : State) (bs : List Byte) : (s.emitGrid bs).swap = s.swap := rfl
@[simp] theorem State.emitGrid_enc (s : State) (bs : List Byte) : (s.emitGrid bs).enc = s.enc := rfl
@[simp] theorem State.emitGrid_btn (s : State) (bs : List Byte) : (s.emitGrid bs).btn = s.btn := rfl
@[simp] theorem State.emitGrid_fs (s : State) (bs : List Byte) : (s.emitGrid bs).fs = s.fs := rfl
@[simp] theorem State.emitGrid_agg (s : State) (bs : List Byte) : (s.emitGrid bs).agg = s.agg := rfl
@[simp] theorem State.emitGrid_handles (s : State) (bs : List Byte) : (s.emitGrid bs).handles = s.handles := rfl
@[simp] theorem State.emitGrid_now (s : State) (bs : List Byte) : (s.emitGrid bs).now = s.now := rfl
@[simp] theorem State.emitGrid_trace (s : State) (bs : List Byte) : (s.emitGrid bs).trace = s.trace := rfl
@[simp] theorem State.emitGrid_results (s : State) (bs : List Byte) : (s.emitGrid bs).results = s.results := rfl
@[simp] theorem State.emitGrid_agenda (s : State) (bs : List Byte) : (s.emitGrid bs).agenda = s.agenda := rfl

/-! `encEntry` -/

@[simp] theorem State.encEntry_scan (s : State) : (s.encEntry).scan = s.scan := rfl
@[simp] theorem State.encEntry_bus (s : State) : (s.encEntry).bus = s.bus := rfl
@[simp] theorem State.encEntry_swap (s : State) : (s.encEntry).swap = s.swap := rfl
@[simp] theorem State.encEntry_enc (s : State) : (s.encEntry).enc = { s.enc with encTrig := s.enc.encIf, tEnc := s.now, encPh := .settling } := rfl
@[simp] theorem State.encEntry_btn (s : State) : (s.encEntry).btn = s.btn := rfl
@[simp] theorem State.encEntry_fs (s : State) : (s.encEntry).fs = s.fs := rfl
@[simp] theorem State.encEntry_agg (s : State) : (s.encEntry).agg = s.agg := rfl
@[simp] theorem State.encEntry_handles (s : State) : (s.encEntry).handles = s.handles := rfl
@[simp] theorem State.encEntry_now (s : State) : (s.encEntry).now = s.now := rfl
@[simp] theorem State.encEntry_trace (s : State) : (s.encEntry).trace = s.trace := rfl
@[simp] theorem State.encEntry_results (s : State) : (s.encEntry).results = s.results := rfl
@[simp] theorem State.encEntry_agenda (s : State) : (s.encEntry).agenda = s.agenda := rfl

/-! `encReturn` -/

@[simp] theorem State.encReturn_scan (s : State) : (s.encReturn).scan = s.scan := rfl
@[simp] theorem State.encReturn_bus (s : State) : (s.encReturn).bus = s.bus := rfl
@[simp] theorem State.encReturn_swap (s : State) : (s.encReturn).swap = s.swap := rfl
@[simp] theorem State.encReturn_enc (s : State) : (s.encReturn).enc = { s.enc with encIf := clearTriggered s.enc.encIf s.enc.encTrig, encPh := .idle } := rfl
@[simp] theorem State.encReturn_btn (s : State) : (s.encReturn).btn = s.btn := rfl
@[simp] theorem State.encReturn_fs (s : State) : (s.encReturn).fs = s.fs := rfl
@[simp] theorem State.encReturn_agg (s : State) : (s.encReturn).agg = s.agg := rfl
@[simp] theorem State.encReturn_handles (s : State) : (s.encReturn).handles = s.handles := rfl
@[simp] theorem State.encReturn_now (s : State) : (s.encReturn).now = s.now := rfl
@[simp] theorem State.encReturn_trace (s : State) : (s.encReturn).trace = s.trace := rfl
@[simp] theorem State.encReturn_results (s : State) : (s.encReturn).results = s.results := rfl
@[simp] theorem State.encReturn_agenda (s : State) : (s.encReturn).agenda = s.agenda := rfl

/-! `btnReturn` -/

@[simp] theorem State.btnReturn_scan (s : State) : (s.btnReturn).scan = s.scan := rfl
@[simp] theorem State.btnReturn_bus (s : State) : (s.btnReturn).bus = s.bus := rfl
@[simp] theorem State.btnReturn_swap (s : State) : (s.btnReturn).swap = s.swap := rfl
@[simp] theorem State.btnReturn_enc (s : State) : (s.btnReturn).enc = s.enc := rfl
@[simp] theorem State.btnReturn_btn (s : State) : (s.btnReturn).btn = { s.btn with btnIf := false, btnDeadline := s.now + Config.tBtn } := rfl
@[simp] theorem State.btnReturn_fs (s : State) : (s.btnReturn).fs = s.fs := rfl
@[simp] theorem State.btnReturn_agg (s : State) : (s.btnReturn).agg = s.agg := rfl
@[simp] theorem State.btnReturn_handles (s : State) : (s.btnReturn).handles = s.handles := rfl
@[simp] theorem State.btnReturn_now (s : State) : (s.btnReturn).now = s.now := rfl
@[simp] theorem State.btnReturn_trace (s : State) : (s.btnReturn).trace = s.trace := rfl
@[simp] theorem State.btnReturn_results (s : State) : (s.btnReturn).results = s.results := rfl
@[simp] theorem State.btnReturn_agenda (s : State) : (s.btnReturn).agenda = s.agenda := rfl

/-! `grantHandle` -/

@[simp] theorem State.grantHandle_scan (s : State) (i : Buf) : (s.grantHandle i).scan = s.scan := rfl
@[simp] theorem State.grantHandle_bus (s : State) (i : Buf) : (s.grantHandle i).bus = s.bus := rfl
@[simp] theorem State.grantHandle_swap (s : State) (i : Buf) : (s.grantHandle i).swap = s.swap := rfl
@[simp] theorem State.grantHandle_enc (s : State) (i : Buf) : (s.grantHandle i).enc = s.enc := rfl
@[simp] theorem State.grantHandle_btn (s : State) (i : Buf) : (s.grantHandle i).btn = s.btn := rfl
@[simp] theorem State.grantHandle_fs (s : State) (i : Buf) : (s.grantHandle i).fs = s.fs := rfl
@[simp] theorem State.grantHandle_agg (s : State) (i : Buf) : (s.grantHandle i).agg = s.agg := rfl
@[simp] theorem State.grantHandle_handles (s : State) (i : Buf) : (s.grantHandle i).handles = s.handles ++ [some { idx := i, presented := false }] := rfl
@[simp] theorem State.grantHandle_now (s : State) (i : Buf) : (s.grantHandle i).now = s.now := rfl
@[simp] theorem State.grantHandle_trace (s : State) (i : Buf) : (s.grantHandle i).trace = s.trace := rfl
@[simp] theorem State.grantHandle_results (s : State) (i : Buf) : (s.grantHandle i).results = s.results := rfl
@[simp] theorem State.grantHandle_agenda (s : State) (i : Buf) : (s.grantHandle i).agenda = s.agenda := rfl

/-! `markPresented` -/

@[simp] theorem State.markPresented_scan (s : State) (h : Nat) (hd : Handle) : (s.markPresented h hd).scan = s.scan := rfl
@[simp] theorem State.markPresented_bus (s : State) (h : Nat) (hd : Handle) : (s.markPresented h hd).bus = s.bus := rfl
@[simp] theorem State.markPresented_swap (s : State) (h : Nat) (hd : Handle) : (s.markPresented h hd).swap = s.swap := rfl
@[simp] theorem State.markPresented_enc (s : State) (h : Nat) (hd : Handle) : (s.markPresented h hd).enc = s.enc := rfl
@[simp] theorem State.markPresented_btn (s : State) (h : Nat) (hd : Handle) : (s.markPresented h hd).btn = s.btn := rfl
@[simp] theorem State.markPresented_fs (s : State) (h : Nat) (hd : Handle) : (s.markPresented h hd).fs = s.fs := rfl
@[simp] theorem State.markPresented_agg (s : State) (h : Nat) (hd : Handle) : (s.markPresented h hd).agg = s.agg := rfl
@[simp] theorem State.markPresented_handles (s : State) (h : Nat) (hd : Handle) : (s.markPresented h hd).handles = s.handles.set h (some { hd with presented := true }) := rfl
@[simp] theorem State.markPresented_now (s : State) (h : Nat) (hd : Handle) : (s.markPresented h hd).now = s.now := rfl
@[simp] theorem State.markPresented_trace (s : State) (h : Nat) (hd : Handle) : (s.markPresented h hd).trace = s.trace := rfl
@[simp] theorem State.markPresented_results (s : State) (h : Nat) (hd : Handle) : (s.markPresented h hd).results = s.results := rfl
@[simp] theorem State.markPresented_agenda (s : State) (h : Nat) (hd : Handle) : (s.markPresented h hd).agenda = s.agenda := rfl

/-! `endHandle` -/

@[simp] theorem State.endHandle_scan (s : State) (h : Nat) : (s.endHandle h).scan = s.scan := rfl
@[simp] theorem State.endHandle_bus (s : State) (h : Nat) : (s.endHandle h).bus = s.bus := rfl
@[simp] theorem State.endHandle_swap (s : State) (h : Nat) : (s.endHandle h).swap = s.swap := rfl
@[simp] theorem State.endHandle_enc (s : State) (h : Nat) : (s.endHandle h).enc = s.enc := rfl
@[simp] theorem State.endHandle_btn (s : State) (h : Nat) : (s.endHandle h).btn = s.btn := rfl
@[simp] theorem State.endHandle_fs (s : State) (h : Nat) : (s.endHandle h).fs = s.fs := rfl
@[simp] theorem State.endHandle_agg (s : State) (h : Nat) : (s.endHandle h).agg = s.agg := rfl
@[simp] theorem State.endHandle_handles (s : State) (h : Nat) : (s.endHandle h).handles = s.handles.set h none := rfl
@[simp] theorem State.endHandle_now (s : State) (h : Nat) : (s.endHandle h).now = s.now := rfl
@[simp] theorem State.endHandle_trace (s : State) (h : Nat) : (s.endHandle h).trace = s.trace := rfl
@[simp] theorem State.endHandle_results (s : State) (h : Nat) : (s.endHandle h).results = s.results := rfl
@[simp] theorem State.endHandle_agenda (s : State) (h : Nat) : (s.endHandle h).agenda = s.agenda := rfl

/-! `writeByte` -/

@[simp] theorem State.writeByte_scan (s : State) (b : Buf) (off : Offset) (v : Byte) : (s.writeByte b off v).scan = s.scan := rfl
@[simp] theorem State.writeByte_bus (s : State) (b : Buf) (off : Offset) (v : Byte) : (s.writeByte b off v).bus = s.bus := rfl
@[simp] theorem State.writeByte_swap (s : State) (b : Buf) (off : Offset) (v : Byte) : (s.writeByte b off v).swap = s.swap := rfl
@[simp] theorem State.writeByte_enc (s : State) (b : Buf) (off : Offset) (v : Byte) : (s.writeByte b off v).enc = s.enc := rfl
@[simp] theorem State.writeByte_btn (s : State) (b : Buf) (off : Offset) (v : Byte) : (s.writeByte b off v).btn = s.btn := rfl
@[simp] theorem State.writeByte_fs (s : State) (b : Buf) (off : Offset) (v : Byte) : (s.writeByte b off v).fs = putCell s.fs (cellKey b off) v := rfl
@[simp] theorem State.writeByte_agg (s : State) (b : Buf) (off : Offset) (v : Byte) : (s.writeByte b off v).agg = s.agg := rfl
@[simp] theorem State.writeByte_handles (s : State) (b : Buf) (off : Offset) (v : Byte) : (s.writeByte b off v).handles = s.handles := rfl
@[simp] theorem State.writeByte_now (s : State) (b : Buf) (off : Offset) (v : Byte) : (s.writeByte b off v).now = s.now := rfl
@[simp] theorem State.writeByte_trace (s : State) (b : Buf) (off : Offset) (v : Byte) : (s.writeByte b off v).trace = s.trace := rfl
@[simp] theorem State.writeByte_results (s : State) (b : Buf) (off : Offset) (v : Byte) : (s.writeByte b off v).results = s.results := rfl
@[simp] theorem State.writeByte_agenda (s : State) (b : Buf) (off : Offset) (v : Byte) : (s.writeByte b off v).agenda = s.agenda := rfl

/-! `fillBuffer` -/

@[simp] theorem State.fillBuffer_scan (s : State) (b : Buf) (v : Byte) : (s.fillBuffer b v).scan = s.scan := rfl
@[simp] theorem State.fillBuffer_bus (s : State) (b : Buf) (v : Byte) : (s.fillBuffer b v).bus = s.bus := rfl
@[simp] theorem State.fillBuffer_swap (s : State) (b : Buf) (v : Byte) : (s.fillBuffer b v).swap = s.swap := rfl
@[simp] theorem State.fillBuffer_enc (s : State) (b : Buf) (v : Byte) : (s.fillBuffer b v).enc = s.enc := rfl
@[simp] theorem State.fillBuffer_btn (s : State) (b : Buf) (v : Byte) : (s.fillBuffer b v).btn = s.btn := rfl
@[simp] theorem State.fillBuffer_fs (s : State) (b : Buf) (v : Byte) : (s.fillBuffer b v).fs = fillCells s.fs (cellKey b 0) 1056 v := rfl
@[simp] theorem State.fillBuffer_agg (s : State) (b : Buf) (v : Byte) : (s.fillBuffer b v).agg = s.agg := rfl
@[simp] theorem State.fillBuffer_handles (s : State) (b : Buf) (v : Byte) : (s.fillBuffer b v).handles = s.handles := rfl
@[simp] theorem State.fillBuffer_now (s : State) (b : Buf) (v : Byte) : (s.fillBuffer b v).now = s.now := rfl
@[simp] theorem State.fillBuffer_trace (s : State) (b : Buf) (v : Byte) : (s.fillBuffer b v).trace = s.trace := rfl
@[simp] theorem State.fillBuffer_results (s : State) (b : Buf) (v : Byte) : (s.fillBuffer b v).results = s.results := rfl
@[simp] theorem State.fillBuffer_agenda (s : State) (b : Buf) (v : Byte) : (s.fillBuffer b v).agenda = s.agenda := rfl

end Sys2Proof.Machine
end

