-- ==== Sys2Proof/Laws/Memory.lean ====
section
/-! SUPPORT. The frame store: reads after writes, and the canonical form kept by every write
(20_memory.md R40 to R47, 40_frame_store_ops.md R82, R84). -/

namespace Sys2Proof.Machine

/-! ### Lists of cells -/

theorem findCell_putCell (m : List Host.Cell) (k : Nat) (v : Byte) (k' : Nat) :
    findCell (putCell m k v) k' = if k = k' then some v else findCell m k' := by
  induction m with
  | nil => simp [putCell, findCell]
  | cons c rest ih =>
    obtain ⟨kc, vc⟩ := c
    by_cases h1 : k < kc
    · simp [putCell, h1, findCell]
    · by_cases h2 : k = kc
      · subst h2
        by_cases h3 : k = k' <;> simp [putCell, findCell, h3]
      · by_cases h3 : kc = k'
        · subst h3
          simp [putCell, h1, h2, findCell]
        · simp [putCell, h1, h2, findCell, h3, ih]

/-- The keys of a list of cells. -/
theorem cellsRise_iff (m : List Host.Cell) : cellsRise m = true ↔ m.Pairwise (fun a b => a.1 < b.1) := by
  induction m with
  | nil => simp [cellsRise]
  | cons a rest ih =>
    cases rest with
    | nil => simp [cellsRise]
    | cons b tail =>
      simp only [cellsRise, Bool.and_eq_true, decide_eq_true_eq, ih]
      constructor
      · rintro ⟨hab, hp⟩
        refine List.pairwise_cons.2 ⟨?_, hp⟩
        intro c hc
        rcases List.mem_cons.1 hc with rfl | hc
        · exact hab
        · exact lt_trans hab ((List.pairwise_cons.1 hp).1 c hc)
      · intro h
        exact ⟨(List.pairwise_cons.1 h).1 b (by simp), (List.pairwise_cons.1 h).2⟩

theorem mem_putCell (m : List Host.Cell) (k : Nat) (v : Byte) (c : Host.Cell) (hc : c ∈ putCell m k v) :
    c = (k, v) ∨ c ∈ m := by
  induction m with
  | nil => simpa [putCell] using hc
  | cons d rest ih =>
    obtain ⟨kd, vd⟩ := d
    simp only [putCell] at hc
    split at hc
    · simpa using hc
    · split at hc
      · rcases List.mem_cons.1 hc with h | h
        · exact .inl h
        · exact .inr (List.mem_cons_of_mem _ h)
      · rcases List.mem_cons.1 hc with h | h
        · exact .inr (h ▸ List.mem_cons_self)
        · exact (ih h).imp_right (List.mem_cons_of_mem _)

theorem pairwise_putCell (m : List Host.Cell) (k : Nat) (v : Byte)
    (h : m.Pairwise (fun a b => a.1 < b.1)) : (putCell m k v).Pairwise (fun a b => a.1 < b.1) := by
  induction m with
  | nil => simp [putCell]
  | cons d rest ih =>
    obtain ⟨kd, vd⟩ := d
    obtain ⟨hd, hr⟩ := List.pairwise_cons.1 h
    simp only [putCell]
    split
    · rename_i hlt
      refine List.pairwise_cons.2 ⟨?_, h⟩
      intro c hc
      rcases List.mem_cons.1 hc with rfl | hc
      · exact hlt
      · exact lt_trans hlt (hd c hc)
    · split
      · rename_i heq
        exact List.pairwise_cons.2 ⟨fun c hc => by simpa [heq] using hd c hc, hr⟩
      · rename_i hnlt hne
        refine List.pairwise_cons.2 ⟨?_, ih hr⟩
        intro c hc
        rcases mem_putCell rest k v c hc with rfl | hc
        · simp only; omega
        · exact hd c hc

/-- `MemWrite` keeps the canonical form. -/
theorem putCell_wf (m : List Host.Cell) (k : Nat) (v : Byte) (hk : k < 3168) (h : Memory.wf m = true) :
    Memory.wf (putCell m k v) = true := by
  simp only [Memory.wf, Bool.and_eq_true, cellsRise_iff, List.all_eq_true, decide_eq_true_eq] at h ⊢
  refine ⟨pairwise_putCell m k v h.1, fun c hc => ?_⟩
  rcases mem_putCell m k v c hc with rfl | hc
  · exact hk
  · exact h.2 c hc

theorem findCell_append (m m' : List Host.Cell) (k : Nat) :
    findCell (m ++ m') k = (findCell m k).or (findCell m' k) := by
  induction m with
  | nil => simp [findCell]
  | cons c rest ih =>
    obtain ⟨kc, vc⟩ := c
    by_cases h : kc = k <;> simp [findCell, h, ih]

theorem findCell_filter (m : List Host.Cell) (p : Nat → Bool) (k : Nat) :
    findCell (m.filter fun c => p c.1) k = if p k then findCell m k else none := by
  induction m with
  | nil => simp [findCell]
  | cons c rest ih =>
    obtain ⟨kc, vc⟩ := c
    by_cases h : kc = k
    · subst h
      cases hp : p kc <;> simp [findCell, hp, ih]
    · cases hp : p kc <;> simp [findCell, hp, ih, h]

theorem findCell_range (n base k : Nat) (v : Byte) :
    findCell ((List.range n).map fun i => (base + i, v)) k
      = if base ≤ k ∧ k < base + n then some v else none := by
  induction n with
  | zero =>
    rw [if_neg (by omega)]
    rfl
  | succ n ih =>
    rw [List.range_succ, List.map_append, findCell_append, ih]
    simp only [List.map_cons, List.map_nil, findCell]
    split <;> split <;> (try split) <;> first | rfl | (exfalso; omega)

theorem findCell_fillCells (m : List Host.Cell) (base n : Nat) (v : Byte) (k : Nat) :
    findCell (fillCells m base n v) k = if base ≤ k ∧ k < base + n then some v else findCell m k := by
  rw [fillCells, findCell_append, findCell_append, findCell_range,
    findCell_filter m (fun k => k < base), findCell_filter m (fun k => base + n ≤ k)]
  by_cases h1 : k < base
  · simp [h1, show ¬ base ≤ k by omega, show ¬ base + n ≤ k by omega]
  · by_cases h2 : k < base + n
    · simp [h1, show base ≤ k by omega, h2]
    · simp [h1, h2, show base + n ≤ k by omega]

/-- `FB.CLEAR`'s writes keep the canonical form. -/
theorem fillCells_wf (m : List Host.Cell) (base n : Nat) (v : Byte) (hb : base + n ≤ 3168)
    (h : Memory.wf m = true) : Memory.wf (fillCells m base n v) = true := by
  simp only [Memory.wf, Bool.and_eq_true, cellsRise_iff, List.all_eq_true, decide_eq_true_eq] at h ⊢
  obtain ⟨hp, hk⟩ := h
  simp only [fillCells, List.pairwise_append, List.mem_append, List.mem_map, List.mem_filter,
    List.mem_range, decide_eq_true_eq]
  refine ⟨⟨⟨hp.filter _, ?_, ?_⟩, hp.filter _, ?_⟩, ?_⟩
  · exact List.pairwise_map.2 (List.pairwise_lt_range.imp fun h => Nat.add_lt_add_left h base)
  · rintro a ⟨-, ha⟩ b ⟨i, -, rfl⟩
    simp only; omega
  · rintro a (⟨-, ha⟩ | ⟨i, hi, rfl⟩) b ⟨-, hb'⟩
    · omega
    · exact lt_of_lt_of_le (Nat.add_lt_add_left hi base) hb'
  · rintro c ((⟨hc, -⟩ | ⟨i, hi, rfl⟩) | ⟨hc, -⟩)
    · exact hk c hc
    · simp only; omega
    · exact hk c hc

/-! ### Bytes of the store -/

theorem cellKey_lt (b : Buf) (off : Offset) : cellKey b off < 3168 := by
  have := b.isLt; have := off.isLt; unfold cellKey; omega

theorem cellKey_inj (b b' : Buf) (off off' : Offset) :
    cellKey b off = cellKey b' off' ↔ b = b' ∧ off = off' := by
  have := off.isLt; have := off'.isLt
  constructor
  · intro h
    unfold cellKey at h
    exact ⟨Fin.ext (by omega), Fin.ext (by omega)⟩
  · rintro ⟨rfl, rfl⟩; rfl

/-- Reading a byte after a write gives the byte written there, and elsewhere what it gave before. -/
theorem readByte_writeByte (s : State) (b : Buf) (off : Offset) (v : Byte) (b' : Buf) (off' : Offset) :
    (s.writeByte b off v).readByte b' off' = if b = b' ∧ off = off' then v else s.readByte b' off' := by
  simp only [State.readByte, State.writeByte_fs, findCell_putCell, cellKey_inj]
  split <;> rfl

/-- Reading a byte after `FB.CLEAR`'s writes: the fill in that buffer, elsewhere as before. -/
theorem readByte_fillBuffer (s : State) (b : Buf) (v : Byte) (b' : Buf) (off' : Offset) :
    (s.fillBuffer b v).readByte b' off' = if b = b' then v else s.readByte b' off' := by
  have := off'.isLt
  simp only [State.readByte, State.fillBuffer_fs, findCell_fillCells]
  by_cases h : b = b'
  · subst h
    rw [if_pos (by unfold cellKey; simp only [Fin.val_zero]; omega), if_pos rfl]; rfl
  · have hv : b.val ≠ b'.val := fun e => h (Fin.ext e)
    rw [if_neg (by unfold cellKey; simp only [Fin.val_zero]; omega), if_neg h]

theorem writeByte_wf (s : State) (b : Buf) (off : Offset) (v : Byte) (h : Memory.wf s.fs = true) :
    Memory.wf (s.writeByte b off v).fs = true :=
  putCell_wf _ _ _ (cellKey_lt b off) h

theorem fillBuffer_wf (s : State) (b : Buf) (v : Byte) (h : Memory.wf s.fs = true) :
    Memory.wf (s.fillBuffer b v).fs = true :=
  fillCells_wf _ _ _ _ (by have := b.isLt; unfold cellKey; simp only [Fin.val_zero]; omega) h

theorem writePixel_wf (s : State) (b : Buf) (x : Fin 132) (y : Fin 64) (c : Bool)
    (h : Memory.wf s.fs = true) : Memory.wf (s.writePixel b x y c).fs = true :=
  writeByte_wf _ _ _ _ h

/-- A pixel write changes one byte. -/
theorem readByte_writePixel (s : State) (b : Buf) (x : Fin 132) (y : Fin 64) (c : Bool)
    (b' : Buf) (off' : Offset) :
    (s.writePixel b x y c).readByte b' off' =
      if b = b' ∧ pixelOffset x y = off'
      then withBit (s.readByte b (pixelOffset x y)) (pixelBit x y) c else s.readByte b' off' :=
  readByte_writeByte s b (pixelOffset x y) _ b' off'

/-- The frame store is read through `fs` alone. -/
theorem readByte_congr (s t : State) (h : t.fs = s.fs) (b : Buf) (off : Offset) :
    t.readByte b off = s.readByte b off := by simp [State.readByte, h]

/-- Bit `i` of a byte with bit `j` set or cleared. -/
theorem withBit_getElem (v : Byte) (j : Fin 8) (c : Bool) (i : Fin 8) :
    (withBit v j c)[i.val] = if i = j then c else v[i.val] := by
  have hj := j.isLt; have hi := i.isLt
  have h1 : (1#8 <<< j.val)[i.val] = decide (i = j) := by
    revert i j; decide
  cases c <;> simp [withBit, BitVec.getElem_or, BitVec.getElem_and, h1] <;> by_cases h : i = j <;> simp [h]

end Sys2Proof.Machine
end

