-- ==== Sys2Proof/Laws/Ops.lean ====
section
/-! SUPPORT. What each shared operation can do, said once: enabling conditions, sets of buffer
indices, handles, the swap chain's regions, and the step's fetch. -/

namespace Sys2Proof.Machine

/-! ### Outcomes -/

@[simp] theorem whenEnabled_true (s t : State) : whenEnabled true s t = .next t := rfl

@[simp] theorem whenEnabled_false (s t : State) : whenEnabled false s t = .next s := rfl

/-- An enabling condition either holds, and the operation is done, or not, and nothing changes. -/
theorem whenEnabled_next {c : Bool} {s t u : State} (h : whenEnabled c s t = .next u) :
    (c = true ∧ u = t) ∨ (c = false ∧ u = s) := by
  cases c
  · exact .inr ⟨rfl, by simpa using h.symm⟩
  · exact .inl ⟨rfl, by simpa using h.symm⟩

theorem whenEnabled_ne_refused (c : Bool) (s t : State) (r : Refusal) : whenEnabled c s t ≠ .refused r := by
  cases c <;> simp

/-- Nothing else reads the frame store's bytes: every update but `withFs` leaves them. -/
@[simp] theorem readByte_withScan (s : State) (x : Scanner) (b : Buf) (off : Offset) :
    (s.withScan x).readByte b off = s.readByte b off := rfl
@[simp] theorem readByte_withBus (s : State) (x : Buses) (b : Buf) (off : Offset) :
    (s.withBus x).readByte b off = s.readByte b off := rfl
@[simp] theorem readByte_withSwap (s : State) (x : SwapChain) (b : Buf) (off : Offset) :
    (s.withSwap x).readByte b off = s.readByte b off := rfl
@[simp] theorem readByte_withHandles (s : State) (x : List (Option Handle)) (b : Buf) (off : Offset) :
    (s.withHandles x).readByte b off = s.readByte b off := rfl
@[simp] theorem readByte_withNow (s : State) (x : Time) (b : Buf) (off : Offset) :
    (s.withNow x).readByte b off = s.readByte b off := rfl
@[simp] theorem readByte_answer (s : State) (r : Result) (b : Buf) (off : Offset) :
    (s.answer r).readByte b off = s.readByte b off := rfl
@[simp] theorem readByte_emitEvent (s : State) (e : Event) (b : Buf) (off : Offset) :
    (s.emitEvent e).readByte b off = s.readByte b off := rfl

/-! ### Sets of buffer indices -/

@[simp] theorem has_add (f : BufSet) (i j : Buf) :
    BufSet.has (BufSet.add f i) j = (i == j || BufSet.has f j) := by
  rw [Bool.eq_iff_iff]
  by_cases h : i = j
  · subst h; simp [BufSet.has, BufSet.add]
  · have : i.val ≠ j.val := fun e => h (Fin.ext e)
    simp [BufSet.has, BufSet.add, this, h]

@[simp] theorem has_remove (f : BufSet) (i j : Buf) :
    BufSet.has (BufSet.remove f i) j = (i != j && BufSet.has f j) := by
  rw [Bool.eq_iff_iff]
  by_cases h : i = j
  · subst h; simp [BufSet.has, BufSet.remove]
  · have : i.val ≠ j.val := fun e => h (Fin.ext e)
    simp [BufSet.has, BufSet.remove, this, h]

/-- Two sets with the same elements are equal. -/
theorem bufSet_ext (f g : BufSet) (h : ∀ i : Buf, BufSet.has f i = BufSet.has g i) : f = g :=
  Vector.ext fun i hi => h ⟨i, hi⟩

theorem buf_cases (i pick : Buf) : i = pick ∨ i = pick + 1 ∨ i = pick + 2 := by revert i pick; decide

/-- What an acquire takes is free (R90). -/
theorem choose_some {f : BufSet} {pick i : Buf} (h : BufSet.choose f pick = some i) :
    BufSet.has f i = true := by
  unfold BufSet.choose at h
  split at h
  · cases h; assumption
  · split at h
    · cases h; assumption
    · split at h
      · cases h; assumption
      · cases h

/-- An acquire finds nothing exactly when no index is free (R90). -/
theorem choose_none {f : BufSet} {pick : Buf} :
    BufSet.choose f pick = none ↔ ∀ i, BufSet.has f i = false := by
  constructor
  · intro h
    unfold BufSet.choose at h
    split at h
    · cases h
    · split at h
      · cases h
      · split at h
        · cases h
        · intro i
          rcases buf_cases i pick with rfl | rfl | rfl <;> simp_all
  · intro h
    simp [BufSet.choose, h]

/-- A free index that is drawn is taken: every choice is possible (R90, 93 U4). -/
theorem choose_of_has {f : BufSet} {i : Buf} (h : BufSet.has f i = true) : BufSet.choose f i = some i := by
  simp [BufSet.choose, h]

/-! ### Time -/

/-- The settle delay is positive (R5). -/
theorem encSettle_pos : 0 < Config.encSettle := by unfold Config.encSettle; positivity

/-- The separation of control-line events, in ns (R109 to R111). -/
theorem ctrlElapsed_iff (s : State) : s.ctrlElapsed = true ↔ s.scan.tCtl + 100 ≤ s.now := by
  simp only [State.ctrlElapsed, decide_eq_true_eq]
  exact Iff.rfl

/-- The button timer may fire (R135). -/
theorem timerExpired_iff (b : Buttons) (now : Time) :
    timerExpired b now = true ↔ b.btnDeadline ≤ now ∧ b.btnIf = false := by simp [timerExpired]

/-- An encoder interrupt is pending (R121). -/
theorem encPending_iff (e : Encoder) : encPending e = true ↔ e.encIf ≠ 0#4 := by simp [encPending]

/-! ### Handles -/

/-- An operation through a handle: refused for want of a handle, refused because it is not live, or
run on its buffer (R85, R170). -/
theorem withLiveHandle_cases (h : Nat) (s : State) (k : Buf → Out) :
    (s.handle? h = none ∧ withLiveHandle h s k = .refused .handleNotHeld) ∨
    (∃ hd, s.handle? h = some hd ∧ (hd.presented = true ∨ BufSet.has s.swap.acq hd.idx = false) ∧
      withLiveHandle h s k = .refused .handleNotWritable) ∨
    (∃ i, s.handle? h = some { idx := i, presented := false } ∧ BufSet.has s.swap.acq i = true ∧
      withLiveHandle h s k = k i) := by
  cases e : s.handle? h with
  | none => exact .inl ⟨rfl, by simp [withLiveHandle, e]⟩
  | some hd =>
    obtain ⟨i, p⟩ := hd
    cases p <;> cases hb : BufSet.has s.swap.acq i
    · exact .inr (.inl ⟨_, rfl, .inr hb, by simp [withLiveHandle, e, hb]⟩)
    · exact .inr (.inr ⟨i, rfl, hb, by simp [withLiveHandle, e, hb]⟩)
    · exact .inr (.inl ⟨_, rfl, .inl rfl, by simp [withLiveHandle, e]⟩)
    · exact .inr (.inl ⟨_, rfl, .inl rfl, by simp [withLiveHandle, e]⟩)

/-- A live handle reaches its buffer. -/
theorem withLiveHandle_live {h : Nat} {s : State} {i : Buf} (k : Buf → Out)
    (hh : s.handle? h = some { idx := i, presented := false }) (ha : BufSet.has s.swap.acq i = true) :
    withLiveHandle h s k = k i := by simp [withLiveHandle, hh, ha]

theorem handle?_lt {s : State} {h : Nat} {hd : Handle} (e : s.handle? h = some hd) : h < s.handles.length := by
  unfold State.handle? at e
  by_contra hc
  rw [List.getElem?_eq_none (by omega)] at e
  simp at e

/-- The handles after a grant: the new one, under the next number, and the old ones. -/
theorem handle?_grantHandle (s : State) (i : Buf) (h : Nat) :
    (s.grantHandle i).handle? h =
      if h = s.handles.length then some { idx := i, presented := false } else s.handle? h := by
  unfold State.handle?
  simp only [State.grantHandle_handles]
  split
  · rename_i e; subst e; simp
  · rename_i e
    by_cases hlt : h < s.handles.length
    · rw [List.getElem?_append_left hlt]
    · rw [List.getElem?_eq_none (by simp; omega), List.getElem?_eq_none (by omega)]

/-- The handles after `presented` is set on one that is held. -/
theorem handle?_markPresented (s : State) (h : Nat) (hd : Handle) (hlt : h < s.handles.length) (h' : Nat) :
    (s.markPresented h hd).handle? h' =
      if h = h' then some { hd with presented := true } else s.handle? h' := by
  unfold State.handle?
  simp only [State.markPresented_handles, List.getElem?_set]
  split
  · simp_all
  · rfl

/-- The handles after one is dropped. -/
theorem handle?_endHandle (s : State) (h h' : Nat) :
    (s.endHandle h).handle? h' = if h = h' then none else s.handle? h' := by
  unfold State.handle?
  simp only [State.endHandle_handles, List.getElem?_set]
  split
  · split <;> simp
  · rfl

/-! ### The swap chain's regions -/

@[simp] theorem take_free (w : SwapChain) (i : Buf) : (w.take i).free = BufSet.remove w.free i := rfl
@[simp] theorem take_pending (w : SwapChain) (i : Buf) : (w.take i).pending = w.pending := rfl
@[simp] theorem take_acq (w : SwapChain) (i : Buf) : (w.take i).acq = BufSet.add w.acq i := rfl
@[simp] theorem publish_pending (w : SwapChain) (i : Buf) : (w.publish i).pending = some i := rfl
@[simp] theorem publish_acq (w : SwapChain) (i : Buf) : (w.publish i).acq = BufSet.remove w.acq i := rfl
@[simp] theorem giveBack_free (w : SwapChain) (i : Buf) : (w.giveBack i).free = BufSet.add w.free i := rfl
@[simp] theorem giveBack_pending (w : SwapChain) (i : Buf) : (w.giveBack i).pending = w.pending := rfl
@[simp] theorem giveBack_acq (w : SwapChain) (i : Buf) : (w.giveBack i).acq = BufSet.remove w.acq i := rfl
@[simp] theorem release_free (w : SwapChain) (i : Buf) : (w.release i).free = BufSet.add w.free i := rfl
@[simp] theorem release_pending (w : SwapChain) (i : Buf) : (w.release i).pending = w.pending := rfl
@[simp] theorem release_acq (w : SwapChain) (i : Buf) : (w.release i).acq = w.acq := rfl
@[simp] theorem collect_fst (w : SwapChain) : w.collect.1 = w.pending := rfl
@[simp] theorem collect_free (w : SwapChain) : w.collect.2.free = w.free := rfl
@[simp] theorem collect_pending (w : SwapChain) : w.collect.2.pending = none := rfl
@[simp] theorem collect_acq (w : SwapChain) : w.collect.2.acq = w.acq := rfl

/-- A superseded index is freed at once (R91). -/
theorem publish_free_has (w : SwapChain) (i j : Buf) :
    BufSet.has (w.publish i).free j = (w.pending == some j || BufSet.has w.free j) := by
  unfold SwapChain.publish
  cases w.pending <;> simp

/-! ### The shared bodies of the meanings -/

/-- One line's pixel bytes are emitted, or nothing changes (R102 to R104). -/
theorem pixLine_cases (k : PatternClass) (bytes : Buf → List Byte) (s : State) :
    (∃ b, s.scan.cur = some b ∧ s.scan.ph = .pix ∧ classOf s.scan.g = k ∧
      pixLine k bytes s = .next ((s.emitPix (bytes b)).toPhase .grid)) ∨ pixLine k bytes s = .next s := by
  unfold pixLine
  cases hc : s.scan.cur with
  | none => exact .inr rfl
  | some b =>
    by_cases h : (s.atPhase .pix && classOf s.scan.g == k) = true
    · simp only [h, whenEnabled_true]
      simp only [State.atPhase, Bool.and_eq_true, beq_iff_eq] at h
      exact .inl ⟨b, rfl, h.1, h.2, rfl⟩
    · rw [Bool.not_eq_true] at h
      exact .inr (by simp only [h, whenEnabled_false])

/-- A transition step stores the sampled state and adds the table's result, or nothing changes
(R122 to R125). -/
theorem encTransition_cases (prev new : BitVec 2) (s : State) :
    (s.enc.encPh = .settling ∧ s.enc.encPrev = prev ∧ s.enc.tEnc + Config.encSettle ≤ s.now ∧
      encTransition prev new s = .next (s.withEnc { s.enc with
        encCount := addCount s.enc.encCount (transition prev new), encPrev := new, encPh := .decoded })) ∨
    encTransition prev new s = .next s := by
  unfold encTransition
  cases h : (s.enc.encPh == .settling && (s.enc.encPrev == prev && decide (s.enc.tEnc + Config.encSettle ≤ s.now)))
  · exact .inr rfl
  · simp only [Bool.and_eq_true, beq_iff_eq, decide_eq_true_eq] at h
    exact .inl ⟨h.1, h.2.1, h.2.2, rfl⟩

/-- The button handler serves a firing of its column, or nothing changes (R136). -/
theorem scanColumn_cases (col : Fin 2) (r0 r1 : Level) (s : State) :
    (s.btn.btnIf = true ∧ s.btn.btnCol = col ∧
      scanColumn col r0 r1 s = .next (((s.withBtn { s.btn with
          btnRaw := storeRows s.btn.btnRaw col r0 r1, colSel := switchColumn s.btn.colSel col,
          btnCol := otherCol col }).emitEvent
        (.pins .colSel (switchColumn s.btn.colSel col)[0] (switchColumn s.btn.colSel col)[1])).btnReturn)) ∨
    scanColumn col r0 r1 s = .next s := by
  unfold scanColumn
  cases h : (s.btn.btnIf && s.btn.btnCol == col)
  · exact .inr rfl
  · simp only [Bool.and_eq_true, beq_iff_eq] at h
    exact .inl ⟨h.1, h.2, rfl⟩

/-- A raw coordinate is in range exactly when its two parts are (R82). -/
theorem rawCoord?_some {x y : Int} {p : Fin 132 × Fin 64} (h : rawCoord? x y = some p) :
    x = p.1.val ∧ y = p.2.val := by
  unfold rawCoord? at h
  split at h
  · rename_i hr
    cases h
    simp only
    omega
  · cases h

theorem rawCoord?_of_fin (x : Fin 132) (y : Fin 64) : rawCoord? (x.val : Int) (y.val : Int) = some (x, y) := by
  have := x.isLt; have := y.isLt
  unfold rawCoord?
  rw [dif_pos (by omega)]
  simp

theorem rawCoord?_none {x y : Int} : rawCoord? x y = none ↔ ¬ ((0 ≤ x ∧ x < 132) ∧ (0 ≤ y ∧ y < 64)) := by
  unfold rawCoord?
  split <;> simp_all

theorem inLogicalArea_iff (x y : Int) :
    inLogicalArea x y = true ↔ (0 ≤ x ∧ x < 128) ∧ (0 ≤ y ∧ y < 64) := by
  simp only [inLogicalArea, Bool.and_eq_true, decide_eq_true_eq]
  omega

/-- The logical area lies inside the raw range. -/
theorem rawCoord?_of_logical {x y : Int} (h : inLogicalArea x y = true) :
    ∃ p, rawCoord? x y = some p := by
  rw [inLogicalArea_iff] at h
  unfold rawCoord?
  rw [dif_pos (by omega)]
  exact ⟨_, rfl⟩

/-! ### The step -/

/-- Everything a step can do: nothing, on an empty agenda; refuse; or run the operation at the head
of the agenda at its instant. -/
theorem step_cases (s : State) :
    (s.agenda = [] ∧ step s = .next s) ∨
    (∃ slot rest r, s.agenda = slot :: rest ∧ step s = .refused r) ∨
    (∃ slot rest i tail, s.agenda = slot :: rest ∧ s.indexTwice = false ∧
      decode slot.bytes = .ok (i, tail) ∧ step s = exec i (s.arrive slot rest)) := by
  unfold step fetch
  cases s.agenda with
  | nil => exact .inl ⟨rfl, rfl⟩
  | cons slot rest =>
    cases h : s.indexTwice with
    | true => exact .inr (.inl ⟨slot, rest, .unreachableState, rfl, by simp⟩)
    | false =>
      cases hd : decode slot.bytes with
      | error e => exact .inr (.inl ⟨slot, rest, .undecodable e, rfl, by simp [hd]⟩)
      | ok p => exact .inr (.inr ⟨slot, rest, p.1, p.2, rfl, rfl, hd, by simp [hd]⟩)

end Sys2Proof.Machine
end

