-- ==== Sys2Proof/Safety.lean ====
section
/-! DEFINITION. What claims about the machine are stated in: the spec's own step relation, runs and
fairness (60_exceptions.md R174, 70_reset_and_hazards.md R197), and the properties a safe state has
(41_swap_chain.md R96, 42_display_scanner.md R116, 44_button_capture.md R137, 70 R186, R187). -/

namespace Sys2Proof.Machine

/-! ### Moves, reachable states, runs -/

/-- The bytes hold an operation that an agent takes as a step of its own, which the two bodies of
`SCAN.REFRESH` and `SCAN.RELEASE` are not (log 16). -/
def Slot.isAgentStep (slot : Slot) : Bool :=
  match decode slot.bytes with
  | .ok (i, _) => !i.isBody
  | .error _ => false

/-- The step relation of the spec: some agent takes some operation at some instant, with some
operands and draws (R49, R174). -/
def Moves (s t : State) : Prop :=
  ∃ slot : Slot, slot.isAgentStep = true ∧ step (s.withAgenda [slot]) = .next t

/-- A state that moves lead to from reset. -/
inductive Reachable : State → Prop where
  | reset : Reachable State.reset
  | move {s t : State} : Reachable s → Moves s t → Reachable t

/-- Takes operations one after the other, each at its instant, and stops at the first refusal. -/
def runTimed : List (Time × Instr) → State → Out
  | [], s => .next s
  | (at_, i) :: rest, s =>
    match exec i (s.withNow (max s.now at_)) with
    | .next t => runTimed rest t
    | .fault r => .fault r
    | .refused r => .refused r

/-- An infinite run: at every step the agenda holds one entry, `slots n`. -/
def IsRun (states : Nat → State) (slots : Nat → Slot) : Prop :=
  ∀ n, (slots n).isAgentStep = true ∧ step ((states n).withAgenda [slots n]) = .next (states (n + 1))

/-- Operation `i` has a step in `s`, and the step does something. -/
def TakesEffect (i : Instr) (s : State) : Prop := ∃ t, exec i s = .next t ∧ t ≠ s

/-- Agent `a` has an enabled step in `s` at the present instant. -/
def AgentEnabled (a : Agent) (s : State) : Prop := ∃ i : Instr, i.agent = a ∧ i.isBody = false ∧ TakesEffect i s

/-- In the `n`-th step of a run, agent `a` took an enabled step. -/
def AgentMoved (a : Agent) (states : Nat → State) (slots : Nat → Slot) (n : Nat) : Prop :=
  ∃ i rest, decode (slots n).bytes = .ok (i, rest) ∧ i.agent = a ∧
    TakesEffect i ((states n).arrive (slots n) [])

/-- Weak fairness and the growth of time (R174 c): an agent of the core whose step stays enabled is
eventually taken, a queued byte eventually leaves, the button timer eventually fires after its
deadline, and time grows without bound. `HOST` is free (R174 d). -/
def WeaklyFair (states : Nat → State) (slots : Nat → Slot) : Prop :=
  (∀ a ∈ [Agent.scan, Agent.enc, Agent.btn], ∀ n,
    (∀ m ≥ n, AgentEnabled a (states m)) → ∃ m ≥ n, AgentMoved a states slots m) ∧
  (∀ n, (∀ m ≥ n, (states m).bus.pixq ≠ []) →
    ∃ m ≥ n, ∃ b, (states m).bus.pixq = b :: (states (m + 1)).bus.pixq) ∧
  (∀ n, (∀ m ≥ n, (states m).bus.gridq ≠ []) →
    ∃ m ≥ n, ∃ b, (states m).bus.gridq = b :: (states (m + 1)).bus.gridq) ∧
  (∀ n, (∀ m ≥ n, timerExpired (states m).btn (states m).now = true) → ∃ m ≥ n, (states m).btn.btnIf = true) ∧
  (∀ t : Time, ∃ n, t ≤ (states n).now)

/-- The premise `SERIAL_RELIABLE` on a list of operations (R5, R115; log 12): no byte is lost. -/
def SerialReliable (ops : List Instr) : Prop := Instr.busDropPix ∉ ops ∧ Instr.busDropGrid ∉ ops

/-! ### Ownership of the buffers -/

/-- R96: every index is in exactly one of `free`, `acq`, `pending`, `cur`, `rel`. -/
def State.Partition (s : State) : Prop := ∀ i : Buf, s.placesOf i = 1

/-- R20, R75: `acq` holds exactly the indices of the handles that were neither presented nor
dropped, and no two of these have the same index. -/
def State.HandlesAgree (s : State) : Prop :=
  (∀ i : Buf, BufSet.has s.swap.acq i = true ↔ ∃ h, s.handle? h = some { idx := i, presented := false }) ∧
  ∀ (h h' : Nat) (i : Buf), s.handle? h = some { idx := i, presented := false } →
    s.handle? h' = some { idx := i, presented := false } → h = h'

/-- R100, R101: a buffer waits for release only between `SCAN.REFRESH` and `SCAN.RELEASE`, and from
phase 2 on a buffer is in use. -/
def State.ScanHolds (s : State) : Prop :=
  (s.scan.ph ≠ .release → s.scan.rel = none) ∧
  (s.scan.ph ≠ .refresh → s.scan.ph ≠ .release → s.scan.cur ≠ none)

/-- The ownership discipline (R51, R96): what the host holds, what the scanner uses and what is
free never meet. -/
def State.Ownership (s : State) : Prop := s.Partition ∧ s.HandlesAgree ∧ s.ScanHolds

/-! ### The serial buses and the control lines -/

/-- R52, R187: bytes are queued only between their emission and `SCAN.FLUSH`; at every other phase,
so during the whole blank and latch sequence, both queues are empty. -/
def State.QueuesFollowPhase (s : State) : Prop :=
  (s.scan.ph ≠ .grid → s.scan.ph ≠ .flush → s.bus.pixq = []) ∧
  (s.scan.ph ≠ .flush → s.bus.gridq = [])

/-- The control-line events of a trace, oldest first: instant, pair, level. -/
def controlEvents (trace : List TraceEntry) : List (Time × PinPair × Level) :=
  trace.filterMap fun e =>
    match e.event with
    | .pins .blank v _ => some (e.time, .blank, v)
    | .pins .latch v _ => some (e.time, .latch, v)
    | .pins .colSel _ _ => none
    | .pix _ => none
    | .grid _ => none

/-- The event that follows a control-line event and the least time between the two (R116, R186 d):
`BLANK` 0, `LATCH` 0, `LATCH` 1, `BLANK` 1, in turn. -/
def controlFollows (a b : Time × PinPair × Level) : Bool :=
  match a.2 with
  | (.blank, false) => b.2 == (.latch, false) && a.1 + Config.tCtrl ≤ b.1
  | (.latch, false) => b.2 == (.latch, true) && a.1 + Config.tCtrl ≤ b.1
  | (.latch, true) => b.2 == (.blank, true) && a.1 + Config.tCtrl ≤ b.1
  | (.blank, true) => b.2 == (.blank, false) && a.1 + Config.tWindow ≤ b.1
  | (.colSel, _) => false

/-- Every two neighbours in the list are in the relation. -/
def neighbours {α : Type} (r : α → α → Bool) : List α → Bool
  | [] => true
  | [_] => true
  | a :: b :: rest => r a b && neighbours r (b :: rest)

/-- R116, R186 d, R198: the control-line events come in their order with their separations, and the
first is `BLANK` 0, no earlier than the blanking window after reset. -/
def ControlSequence (trace : List TraceEntry) : Prop :=
  neighbours controlFollows (controlEvents trace) = true ∧
  ∀ e, (controlEvents trace).head? = some e → e.2 = (.blank, false) ∧ Config.tWindow ≤ e.1

/-- What the scanner's registers say of the last control-line event: which it was, at each phase,
and that `t_ctl` or `t_arm` does not stand before it (R14, R108 to R112). -/
def State.ControlFollowsPhase (s : State) : Prop :=
  match s.scan.ph with
  | .latchLo => (controlEvents s.trace).getLast? = some (s.scan.tCtl, .blank, false)
  | .latchHi => (controlEvents s.trace).getLast? = some (s.scan.tCtl, .latch, false)
  | .blankOff => (controlEvents s.trace).getLast? = some (s.scan.tCtl, .latch, true)
  | .arm => ∃ t, (controlEvents s.trace).getLast? = some (t, .blank, true) ∧ t ≤ s.now
  | .blankOn =>
    (∀ e, (controlEvents s.trace).getLast? = some e → e.2 = (.blank, true) ∧ e.1 ≤ s.scan.tArm) ∧
      s.scan.tArm + Config.tWindow ≤ s.now
  | .refresh | .release | .pix | .grid | .flush | .waitwin | .adv =>
    ∀ e, (controlEvents s.trace).getLast? = some e → e.2 = (.blank, true) ∧ e.1 ≤ s.scan.tArm

/-- Time is not negative (R7, R197), and the instants the agents have stamped lie between reset and now
(R14, R24). -/
def State.StampsHavePassed (s : State) : Prop :=
  0 ≤ s.now ∧ (0 ≤ s.scan.tArm ∧ s.scan.tArm ≤ s.now) ∧ (0 ≤ s.scan.tCtl ∧ s.scan.tCtl ≤ s.now) ∧
  (0 ≤ s.enc.tEnc ∧ s.enc.tEnc ≤ s.now)

/-- The control sequence is kept, the registers know where in it the scanner stands, and no instant
is negative or yet to come. -/
def State.ControlSafe (s : State) : Prop :=
  ControlSequence s.trace ∧ s.ControlFollowsPhase ∧ s.StampsHavePassed

/-! ### Vocabulary of the statements -/

/-- `out` is `~rev8(stored & mask)`, bit by bit: bit `7-j` is `NOT (stored[j] AND mask[j])` (R62). -/
def IsTransformOf (out stored mask : Byte) : Prop :=
  ∀ j : Fin 8, out[7 - j.val] = !(stored[j.val] && mask[j.val])

/-- The host holds handle `h`, not presented, on buffer `b`, and `b` is acquired: the handle is live
(R85). -/
def State.Live (s : State) (h : Nat) (b : Buf) : Prop :=
  s.handle? h = some { idx := b, presented := false } ∧ BufSet.has s.swap.acq b = true

/-- The handle a frame store operation goes through (R80 to R84). -/
def fbHandleOf : Instr → Option Nat
  | .fbSet h _ _ _ | .fbGet h _ _ | .fbClear h _ | .fbSetRaw h _ _ _ | .fbGetRaw h _ _ => some h
  | _ => none

/-- The handle a host operation goes through: one of the frame store, `SC.PRESENT` or `SC.DROP`
(R80 to R84, R91, R92). -/
def handleOf : Instr → Option Nat
  | .scPresent h | .scDrop h => some h
  | i => fbHandleOf i

/-- The raw coordinate of `FB.SET_RAW` and `FB.GET_RAW` (R82, R83). -/
def rawCoordOf : Instr → Option (Int × Int)
  | .fbSetRaw _ x y _ | .fbGetRaw _ x y => some (x, y)
  | _ => none

/-- What an `INPUTSTATE` says of a logical button: 0, 1, 2 the panel buttons, 3 the encoder
push-button (R76). -/
def InputState.ofButton (r : InputState) (button : Fin 4) : ButtonState :=
  if h : button.val < 3 then r.button[button.val] else r.encoder.push

/-- The emission operation of a grid line (R61, R102 to R104). -/
def pixOpOf (g : GridLine) : Instr :=
  match classOf g with
  | .a => .scanPixA
  | .b => .scanPixB
  | .c => .scanPixC

/-- Number of pixel bytes of a grid line (R4 `PIX_LEN_STD`, `PIX_LEN_LAST`). -/
def pixCountOf (g : GridLine) : Nat := if g.val = 43 then 16 else 48

/-- One pass of the scanner over a line, every byte delivered before `SCAN.FLUSH`, the pixel bytes
first (30_encoding.md R74 `SCAN.LINE`, 42 R116): all up to the flush at `t0`, the blank event at
`t1`, the latch events at `t2` and `t3`, the unblank event at `t4`, the arming at `t5`. -/
def scanLine (g : GridLine) (t0 t1 t2 t3 t4 t5 : Time) : List (Time × Instr) :=
  [(t0, .scanRefresh), (t0, .scanRelease), (t0, pixOpOf g), (t0, .scanGrid)]
    ++ List.replicate (pixCountOf g) (t0, .busDeliverPix) ++ List.replicate 6 (t0, .busDeliverGrid)
    ++ [(t0, .scanFlush), (t1, .scanWaitwin), (t1, .scanBlankOn), (t2, .scanLatchLo),
        (t3, .scanLatchHi), (t4, .scanBlankOff), (t5, .scanArm), (t5, .scanAdv)]

/-- One complete handler run, its edge at `t` and its sample after the settle delay (R120 to R126). -/
def handlerRun (edge sample : Instr) (t : Time) : List (Time × Instr) :=
  [(t, edge), (t, .encEnter), (t + Config.encSettle, sample), (t + Config.encSettle, .encExit)]

/-! ### The other invariants -/

/-- R137: exactly one column is selected, and `btn_col` names it. -/
def State.OneColumnSelected (s : State) : Prop :=
  s.btn.colSel[s.btn.btnCol] = true ∧ s.btn.colSel[otherCol s.btn.btnCol] = false

end Sys2Proof.Machine
end

