-- ==== Sys2Proof/Certificates/Slice0/Obligations.lean ====
section
/-! DEFINITION. The statements for the provers. Where a statement rests on a point the spec marks as
its own decision or derivation, its docstring names it. -/

open Sys2Proof Sys2Proof.Machine

/-! ### Operation words -/

/-- Every operation, with any operands, is read back from its record, with whatever stands behind it
(OPW of 30_encoding.md R71; the operand layout is the model's choice, log 1). -/
def Obligations.DecodeReadsBackEncoding : Prop :=
  ∀ (i : Instr) (rest : List Byte), decode (encode i ++ rest) = .ok (i, rest)

/-- What decodes is exactly the record of the operation it decodes to, so no operation has two
records and no reserved value is read as a neighbour (the operand layout is the model's choice,
log 1). -/
def Obligations.DecodedBytesAreTheRecord : Prop :=
  ∀ (i : Instr) (bytes rest : List Byte),
    decode bytes = .ok (i, rest) → bytes = encode i ++ rest

/-- The words of a few operations, one of each family. 30_encoding.md R71 gives the words alone: where
an operation has operands, that zero bytes behind its word mean handle 0, coordinates 0, unlit and
low is the model's own layout (DESIGN CHOICE, log 1). -/
def Obligations.WordsOfEachFamilyDecode : Prop :=
  decodeTableWord 8 0b00100010 = some .scanPixC ∧
  decodeTableWord 8 0b00110000 = some .scCollect ∧
  decodeTableWord 8 0b00110111 = some .busDropGrid ∧
  decodeTableWord 8 0b01001110 = some .encTInc1110 ∧
  decodeTableWord 8 0b01010000 = some .encEnter ∧
  decodeTableWord 8 0b01110010 = some .encEdgeBFall ∧
  decodeTableWord 8 0b10000001 = some (.btnScanCol1 false false) ∧
  decodeTableWord 8 0b11000011 = some (.fbSetRaw 0 0 0 false) ∧
  decodeTableWord 8 0b11001001 = some (.scPresent 0) ∧
  decodeTableWord 8 0b11010010 = some .aggBtn

/-! ### The step -/

/-- A step takes the operation at the head of the agenda, at its instant or now if that is later
(the agenda is the model's form of the spec's free choices, log 2 and 4). -/
def Obligations.StepRunsDecodedOperation : Prop :=
  ∀ (s : State) (slot : Slot) (rest : List Slot) (i : Instr) (tail : List Byte),
    s.agenda = slot :: rest → s.indexTwice = false → decode slot.bytes = .ok (i, tail) →
    step s = exec i { s with now := max s.now slot.time, agenda := rest }

/-- What a step does when it runs no operation: nothing on an empty agenda; a refusal by name on
bytes that are no operation and in a state that has an index in two collections (log 2, 17). -/
def Obligations.StepWithoutOperation : Prop :=
  (∀ s : State, s.agenda = [] → step s = .next s) ∧
  (∀ (s : State) (slot : Slot) (rest : List Slot), s.agenda = slot :: rest → s.indexTwice = true →
    step s = .refused .unreachableState) ∧
  (∀ (s : State) (slot : Slot) (rest : List Slot) (e : DecodeError), s.agenda = slot :: rest →
    s.indexTwice = false → decode slot.bytes = .error e → step s = .refused (.undecodable e))

/-- Only operations of the host are refused, only for the misuses the spec names, and only where that
misuse took place: through a handle that is not held; a frame store operation through a handle that
was presented or whose index is not acquired; a raw accessor outside its range; an aggregator step
out of its order (R85, R82, R83, R145 to R147, R170; decisions D3, D31, D33; that SC.PRESENT and
SC.DROP of a handle never acquired are refused like those of a dropped one is the model's reading,
log 15). -/
def Obligations.OnlyHostMisuseIsRefused : Prop :=
  ∀ (i : Instr) (s : State) (r : Refusal), exec i s = .refused r →
    i.agent = .host ∧
    (r = .handleNotHeld ∨ r = .handleNotWritable ∨ r = .rawOutOfRange ∨ r = .aggOutOfOrder) ∧
    (r = .handleNotHeld → ∃ h, handleOf i = some h ∧ s.handle? h = none) ∧
    (r = .handleNotWritable → ∃ (h : Nat) (hd : Handle), fbHandleOf i = some h ∧ s.handle? h = some hd ∧
      (hd.presented = true ∨ BufSet.has s.swap.acq hd.idx = false)) ∧
    (r = .rawOutOfRange → ∃ x y : Int, rawCoordOf i = some (x, y) ∧
      ¬ ((0 ≤ x ∧ x < 132) ∧ (0 ≤ y ∧ y < 64))) ∧
    (r = .aggOutOfOrder → (i = .aggEnc ∧ s.agg.aggPh ≠ .enc) ∨
      (i = .aggBtn ∧ ∀ k, s.agg.aggPh ≠ .btn k) ∨ (i = .aggUpdate ∧ s.agg.aggPh ≠ .update))

/-- An operation whose enabling condition is false changes nothing: the agent holds
(42_display_scanner.md, header). Two parts are the model's reading (DEDUCED, log 3): that the agents
other than SCAN hold in the same way; and the clause on `cur = none`, since R102 to R104 enable
`SCAN.PIX.A`, `.B` and `.C` on `ph` and `g` alone. -/
def Obligations.NotEnabledHolds : Prop :=
  ∀ s : State,
    (s.scan.ph ≠ .refresh → exec .scanRefresh s = .next s) ∧
    (s.scan.ph ≠ .release → exec .scanRelease s = .next s) ∧
    (¬ (s.scan.ph = .pix ∧ s.scan.g.val % 2 = 1 ∧ s.scan.g.val ≠ 43) → exec .scanPixA s = .next s) ∧
    (¬ (s.scan.ph = .pix ∧ s.scan.g.val % 2 = 0) → exec .scanPixB s = .next s) ∧
    (¬ (s.scan.ph = .pix ∧ s.scan.g.val = 43) → exec .scanPixC s = .next s) ∧
    (s.scan.cur = none → exec .scanPixA s = .next s ∧ exec .scanPixB s = .next s ∧
      exec .scanPixC s = .next s) ∧
    (s.scan.ph ≠ .grid → exec .scanGrid s = .next s) ∧
    (¬ (s.scan.ph = .flush ∧ s.bus.pixq = [] ∧ s.bus.gridq = []) → exec .scanFlush s = .next s) ∧
    (¬ (s.scan.ph = .waitwin ∧ s.scan.tArm + 5000 ≤ s.now) → exec .scanWaitwin s = .next s) ∧
    (s.scan.ph ≠ .blankOn → exec .scanBlankOn s = .next s) ∧
    (¬ (s.scan.ph = .latchLo ∧ s.scan.tCtl + 100 ≤ s.now) → exec .scanLatchLo s = .next s) ∧
    (¬ (s.scan.ph = .latchHi ∧ s.scan.tCtl + 100 ≤ s.now) → exec .scanLatchHi s = .next s) ∧
    (¬ (s.scan.ph = .blankOff ∧ s.scan.tCtl + 100 ≤ s.now) → exec .scanBlankOff s = .next s) ∧
    (s.scan.ph ≠ .arm → exec .scanArm s = .next s) ∧
    (s.scan.ph ≠ .adv → exec .scanAdv s = .next s) ∧
    (s.bus.pixq = [] → exec .busDeliverPix s = .next s ∧ exec .busDropPix s = .next s) ∧
    (s.bus.gridq = [] → exec .busDeliverGrid s = .next s ∧ exec .busDropGrid s = .next s) ∧
    (¬ (s.enc.encPh = .idle ∧ s.enc.encIf ≠ 0) → exec .encEnter s = .next s) ∧
    (s.enc.encPh ≠ .decoded → exec .encExit s = .next s) ∧
    (∀ p ∈ [(Instr.encTHold0000, 0b00#2), (.encTInc0001, 0b00#2), (.encTDec0010, 0b00#2),
        (.encTRej0011, 0b00#2), (.encTDec0100, 0b01#2), (.encTHold0101, 0b01#2), (.encTRej0110, 0b01#2),
        (.encTInc0111, 0b01#2), (.encTInc1000, 0b10#2), (.encTRej1001, 0b10#2), (.encTHold1010, 0b10#2),
        (.encTDec1011, 0b10#2), (.encTRej1100, 0b11#2), (.encTDec1101, 0b11#2), (.encTInc1110, 0b11#2),
        (.encTHold1111, 0b11#2)],
      ¬ (s.enc.encPh = .settling ∧ s.enc.encPrev = p.2 ∧ s.enc.tEnc + Config.encSettle ≤ s.now) →
        exec p.1 s = .next s) ∧
    (¬ (s.btn.btnDeadline ≤ s.now ∧ s.btn.btnIf = false) → exec .btnFire s = .next s) ∧
    (∀ r0 r1, ¬ (s.btn.btnIf = true ∧ s.btn.btnCol = 0) → exec (.btnScanCol0 r0 r1) s = .next s) ∧
    (∀ r0 r1, ¬ (s.btn.btnIf = true ∧ s.btn.btnCol = 1) → exec (.btnScanCol1 r0 r1) s = .next s)

/-! ### Display scanner -/

/-- `SCAN.REFRESH` collects and adopts in one step, or finds nothing (R100; one step by the spec's
decision D10). -/
def Obligations.RefreshAdoptsPending : Prop :=
  ∀ s : State, s.scan.ph = .refresh →
    (∀ i, s.swap.pending = some i → exec .scanRefresh s = .next { s with
      swap := { s.swap with pending := none },
      scan := { s.scan with rel := s.scan.cur, cur := some i, ph := .release } }) ∧
    (s.swap.pending = none → exec .scanRefresh s = .next { s with
      scan := { s.scan with ph := .release } })

/-- `SCAN.RELEASE` frees the buffer that waits, and idles while no buffer is in use (R101; decision
D8). -/
def Obligations.ReleaseFreesPreviousBuffer : Prop :=
  ∀ s : State, s.scan.ph = .release → ∃ t, exec .scanRelease s = .next t ∧
    (∀ k, BufSet.has t.swap.free k = (decide (s.scan.rel = some k) || BufSet.has s.swap.free k)) ∧
    t = { s with
      swap := { s.swap with free := t.swap.free },
      scan := { s.scan with rel := none, ph := if s.scan.cur = none then .refresh else .pix } }

/-- `SCAN.PIX.A` and `SCAN.PIX.B`: the 48 bytes of the line's column group, in ascending order, each
masked with pattern A on an odd line and pattern B on an even one, reversed and inverted (R102,
R103; order and masks by decisions D4, D6). -/
def Obligations.PixABEmitColumnBytes : Prop :=
  ∀ (s : State) (b : Buf), s.scan.ph = .pix → s.scan.cur = some b → s.scan.g.val ≠ 43 →
    ∃ (t : State) (out : Vector Byte 48),
      exec (if s.scan.g.val % 2 = 1 then .scanPixA else .scanPixB) s = .next t ∧
      t = { s with
        scan := { s.scan with ph := .grid },
        bus := { s.bus with pixq := s.bus.pixq ++ out.toList } } ∧
      ∀ (i : Fin 48) (off : Offset), off.val = 48 * ((s.scan.g.val - 1) / 2) + i.val →
        IsTransformOf out[i] (s.readByte b off)
          (if s.scan.g.val % 2 = 1 then Config.patternA else Config.patternB)

/-- `SCAN.PIX.C`: the first 16 bytes of the last column group, each with its own mask (R104; form
and order by decisions D4, D7). -/
def Obligations.PixCEmitsLastColumnBytes : Prop :=
  ∀ (s : State) (b : Buf), s.scan.ph = .pix → s.scan.cur = some b → s.scan.g.val = 43 →
    ∃ (t : State) (out : Vector Byte 16), exec .scanPixC s = .next t ∧
      t = { s with
        scan := { s.scan with ph := .grid },
        bus := { s.bus with pixq := s.bus.pixq ++ out.toList } } ∧
      ∀ (i : Fin 16) (off : Offset), off.val = 1008 + i.val →
        IsTransformOf out[i] (s.readByte b off) (Config.patternC i)

/-- The byte transform, bit by bit: a bit the mask keeps is inverted and reversed, a bit it clears
is sent as 1 (R62). -/
def Obligations.TransformReversesAndInverts : Prop :=
  ∀ s m : Byte, IsTransformOf (byteTransform s m) s m

/-- `SCAN.GRID`: six bytes whose levels on the wire, in time, are 0 for the grid bits `g-1` and `g`
and 1 for the 46 others (R105, R65, R63; numbering by decision D5). -/
def Obligations.GridWordClearsTwoBits : Prop :=
  ∀ s : State, s.scan.ph = .grid →
    ∃ (t : State) (out : Vector Byte 6), exec .scanGrid s = .next t ∧
      t = { s with
        scan := { s.scan with ph := .flush },
        bus := { s.bus with gridq := s.bus.gridq ++ out.toList } } ∧
      out.toList.flatMap wireBits
        = (List.range 48).map fun n => !(n == s.scan.g.val - 1 || n == s.scan.g.val)

/-- `SCAN.FLUSH` passes at phase 4 when both queues are empty, and else holds the scanner (R106). -/
def Obligations.FlushWaitsForBothQueues : Prop :=
  ∀ s : State,
    (s.scan.ph = .flush ∧ s.bus.pixq = [] ∧ s.bus.gridq = [] →
      exec .scanFlush s = .next { s with scan := { s.scan with ph := .waitwin } }) ∧
    (¬ (s.scan.ph = .flush ∧ s.bus.pixq = [] ∧ s.bus.gridq = []) → exec .scanFlush s = .next s)

/-- The four control-line operations: the lines they drive, the event they record, the instant they
stamp (R108 to R111; each pair one event by decision D12). -/
def Obligations.ControlLinesFollowSequence : Prop :=
  ∀ s : State,
    (s.scan.ph = .blankOn → exec .scanBlankOn s = .next { s with
      scan := { s.scan with blank := #v[false, false], tCtl := s.now, ph := .latchLo },
      trace := s.trace ++ [⟨s.now, .pins .blank false false⟩] }) ∧
    (s.scan.ph = .latchLo → s.scan.tCtl + 100 ≤ s.now → exec .scanLatchLo s = .next { s with
      scan := { s.scan with latch := #v[false, false], tCtl := s.now, ph := .latchHi },
      trace := s.trace ++ [⟨s.now, .pins .latch false false⟩] }) ∧
    (s.scan.ph = .latchHi → s.scan.tCtl + 100 ≤ s.now → exec .scanLatchHi s = .next { s with
      scan := { s.scan with latch := #v[true, true], tCtl := s.now, ph := .blankOff },
      trace := s.trace ++ [⟨s.now, .pins .latch true true⟩] }) ∧
    (s.scan.ph = .blankOff → s.scan.tCtl + 100 ≤ s.now → exec .scanBlankOff s = .next { s with
      scan := { s.scan with blank := #v[true, true], ph := .arm },
      trace := s.trace ++ [⟨s.now, .pins .blank true true⟩] })

/-- `SCAN.WAITWIN` passes at phase 5 once 5000 ns have gone by since the arming, and else holds the
scanner (R107); `SCAN.ARM` arms the window anew at phase 10 (R112). -/
def Obligations.WindowIsWaitedOutAndArmed : Prop :=
  ∀ s : State,
    (s.scan.ph = .waitwin ∧ s.scan.tArm + 5000 ≤ s.now →
      exec .scanWaitwin s = .next { s with scan := { s.scan with ph := .blankOn } }) ∧
    (¬ (s.scan.ph = .waitwin ∧ s.scan.tArm + 5000 ≤ s.now) → exec .scanWaitwin s = .next s) ∧
    (s.scan.ph = .arm →
      exec .scanArm s = .next { s with scan := { s.scan with tArm := s.now, ph := .adv } }) ∧
    (s.scan.ph ≠ .arm → exec .scanArm s = .next s)

/-- `SCAN.ADV` advances the line cyclically over 1 to 43 at phase 11 and starts the next cycle; at
any other phase the scanner holds (R113). -/
def Obligations.AdvanceCyclesGridLine : Prop :=
  ∀ s : State,
    (s.scan.ph = .adv → ∃ t, exec .scanAdv s = .next t ∧ t.scan.g.val = s.scan.g.val % 43 + 1 ∧
      t = { s with scan := { s.scan with g := t.scan.g, ph := .refresh } }) ∧
    (s.scan.ph ≠ .adv → exec .scanAdv s = .next s)

/-- One pass over a line with every byte delivered, from the buffer that is in use after
`SCAN.REFRESH`: the one that was pending, adopted for this very line, or else the one that was in use
before. It emits the pixel bytes and the six grid bytes, then the four control events at their
instants, frees the buffer that was in use before an adoption, and goes to the next line (R116,
derived in the spec from R100 to R115; adoption at any line R117; the pixel bytes before the grid
bytes is one of the interleavings R116 allows). -/
def Obligations.LinePassProducesItsTrace : Prop :=
  ∀ (s : State) (b : Buf) (t0 t1 t2 t3 t4 t5 : Time),
    s.scan.ph = .refresh → (s.swap.pending = some b ∨ (s.swap.pending = none ∧ s.scan.cur = some b)) →
    s.bus.pixq = [] → s.bus.gridq = [] →
    s.now ≤ t0 → t0 ≤ t1 → s.scan.tArm + 5000 ≤ t1 → t1 + 100 ≤ t2 → t2 + 100 ≤ t3 →
    t3 + 100 ≤ t4 → t4 ≤ t5 →
    ∃ (u : State) (px gr : List Byte),
      runTimed (scanLine s.scan.g t0 t1 t2 t3 t4 t5) s = .next u ∧
      px.length = (if s.scan.g.val = 43 then 16 else 48) ∧
      (∀ (i : Fin 48) (x : Byte) (off : Offset), px[i.val]? = some x →
        off.val = 48 * ((s.scan.g.val - 1) / 2) + i.val →
        IsTransformOf x (s.readByte b off)
          (if h : s.scan.g.val = 43 ∧ i.val < 16 then Config.patternC ⟨i.val, h.2⟩
           else if s.scan.g.val % 2 = 1 then Config.patternA else Config.patternB)) ∧
      gr.flatMap wireBits
        = (List.range 48).map (fun n => !(n == s.scan.g.val - 1 || n == s.scan.g.val)) ∧
      u.trace = s.trace ++ px.map (fun x => ⟨t0, .pix x⟩) ++ gr.map (fun x => ⟨t0, .grid x⟩)
        ++ [⟨t1, .pins .blank false false⟩, ⟨t2, .pins .latch false false⟩,
            ⟨t3, .pins .latch true true⟩, ⟨t4, .pins .blank true true⟩] ∧
      u.scan.g.val = s.scan.g.val % 43 + 1 ∧ u.scan.ph = .refresh ∧ u.scan.tArm = t5 ∧
      u.scan.cur = some b ∧ u.scan.rel = none ∧ u.swap.pending = none ∧ u.swap.acq = s.swap.acq ∧
      (∀ k, BufSet.has u.swap.free k = (BufSet.has s.swap.free k ||
        decide ((if s.swap.pending = none then s.scan.rel else s.scan.cur) = some k))) ∧
      u.bus = { pixq := [], gridq := [] } ∧ u.fs = s.fs ∧ u.enc = s.enc ∧ u.btn = s.btn

/-- The scanner never stops: at every phase some scanner operation has a step that leaves the phase, at
some instant; only `SCAN.FLUSH` needs empty buses for it, and a phase that scans needs a buffer in
use (R118, decision D32; that a buffer is in use from phase 2 on is part of `StepKeepsOwnership`;
that the buses run empty is `DeliveriesKeepOrder`). -/
def Obligations.ScannerAlwaysHasANextStep : Prop :=
  ∀ s : State, s.ScanHolds → (s.scan.ph = .flush → s.bus.pixq = [] ∧ s.bus.gridq = []) →
    ∃ (i : Instr) (t : Time) (u : State), i.agent = .scan ∧ i.isBody = false ∧
      runTimed [(t, i)] s = .next u ∧ u.scan.ph ≠ s.scan.ph

/-! ### Serial buses -/

/-- `BUS.DELIVER` shifts out the oldest byte of its bus and records it; `BUS.DROP` loses it and
nothing records that (R114, R115; queues and byte-by-byte loss by decision D11, log 12). -/
def Obligations.BusesDeliverOrLoseOldestByte : Prop :=
  ∀ (s : State) (b : Byte) (rest : List Byte),
    (s.bus.pixq = b :: rest →
      exec .busDeliverPix s = .next { s with
        bus := { s.bus with pixq := rest }, trace := s.trace ++ [⟨s.now, .pix b⟩] } ∧
      exec .busDropPix s = .next { s with bus := { s.bus with pixq := rest } }) ∧
    (s.bus.gridq = b :: rest →
      exec .busDeliverGrid s = .next { s with
        bus := { s.bus with gridq := rest }, trace := s.trace ++ [⟨s.now, .grid b⟩] } ∧
      exec .busDropGrid s = .next { s with bus := { s.bus with gridq := rest } })

/-- As many deliveries as a bus has bytes shift out all of them, in the order they were emitted
(R114, R186 a). -/
def Obligations.DeliveriesKeepOrder : Prop :=
  ∀ (s : State) (t : Time), t ≤ s.now →
    runTimed (List.replicate s.bus.pixq.length (t, .busDeliverPix)) s = .next { s with
      bus := { s.bus with pixq := [] },
      trace := s.trace ++ s.bus.pixq.map fun b => ⟨s.now, .pix b⟩ } ∧
    runTimed (List.replicate s.bus.gridq.length (t, .busDeliverGrid)) s = .next { s with
      bus := { s.bus with gridq := [] },
      trace := s.trace ++ s.bus.gridq.map fun b => ⟨s.now, .grid b⟩ }

/-! ### Frame hand-off -/

/-- `SC.ACQUIRE` takes a free index, the drawn one if it is free, and gives the host a new handle to
it; with nothing free it answers none (R90, R156; any choice is possible by decision D28, log 11;
handle numbers and the log of answers are the model's, log 14, 18). -/
def Obligations.AcquireTakesFreeIndex : Prop :=
  ∀ (s : State) (pick : Buf),
    ((∀ i, BufSet.has s.swap.free i = false) → exec (.scAcquire pick) s = .next { s with
      results := s.results ++ [.acquired none] }) ∧
    ((∃ i, BufSet.has s.swap.free i = true) → ∃ (i : Buf) (t : State),
      exec (.scAcquire pick) s = .next t ∧ BufSet.has s.swap.free i = true ∧
      (BufSet.has s.swap.free pick = true → i = pick) ∧
      (∀ k, BufSet.has t.swap.free k = (BufSet.has s.swap.free k && k != i)) ∧
      (∀ k, BufSet.has t.swap.acq k = (BufSet.has s.swap.acq k || k == i)) ∧
      t = { s with
        swap := { t.swap with pending := s.swap.pending },
        handles := s.handles ++ [some { idx := i, presented := false }],
        results := s.results ++ [.acquired (some s.handles.length)] })

/-- `SC.PRESENT` makes the handle's buffer pending, frees a superseded one at once and marks the
handle; on a presented handle it is a no-op (R91). -/
def Obligations.PresentPublishesBuffer : Prop :=
  ∀ (s : State) (h : Nat) (i : Buf),
    (s.handle? h = some { idx := i, presented := true } → exec (.scPresent h) s = .next s) ∧
    (s.handle? h = some { idx := i, presented := false } → ∃ t : State,
      exec (.scPresent h) s = .next t ∧ t.swap.pending = some i ∧
      (∀ k, BufSet.has t.swap.free k = (BufSet.has s.swap.free k || decide (s.swap.pending = some k))) ∧
      (∀ k, BufSet.has t.swap.acq k = (BufSet.has s.swap.acq k && k != i)) ∧
      (∀ h', t.handle? h' = if h' = h then some { idx := i, presented := true } else s.handle? h') ∧
      t = { s with swap := t.swap, handles := t.handles })

/-- `SC.DROP` gives an unpresented buffer back, leaves a presented one, and ends the handle (R92;
the presented case is derived there from R91). -/
def Obligations.DropEndsHandle : Prop :=
  ∀ (s : State) (h : Nat) (i : Buf) (p : Bool), s.handle? h = some { idx := i, presented := p } →
    ∃ t : State, exec (.scDrop h) s = .next t ∧ t.swap.pending = s.swap.pending ∧
      (∀ k, BufSet.has t.swap.free k = (BufSet.has s.swap.free k || (!p && k == i))) ∧
      (∀ k, BufSet.has t.swap.acq k = (BufSet.has s.swap.acq k && (p || k != i))) ∧
      (∀ h', t.handle? h' = if h' = h then none else s.handle? h') ∧
      t = { s with swap := t.swap, handles := t.handles }

/-- `SC.COLLECT` takes the pending index, leaving none, and returns it (R93). The hardware executes it
only inside `SCAN.REFRESH`: that it is taken alone, in any phase, and hands the index to a caller is
the model's choice (DESIGN CHOICE, unsafe, log 16); so is the log of answers (log 18). -/
def Obligations.CollectTakesPending : Prop :=
  ∀ s : State, exec .scCollect s = .next { s with
    swap := { s.swap with pending := none }, results := s.results ++ [.collected s.swap.pending] }

/-- `SC.RELEASE i` adds `i` to the free indices and changes nothing else (R94; a region of its own
by decision D10). The hardware executes it only inside `SCAN.RELEASE`, on the buffer that waits: that
it is taken alone, in any phase and for any `i`, is the model's choice (DESIGN CHOICE, unsafe,
log 16). -/
def Obligations.ReleaseAddsToFree : Prop :=
  ∀ (s : State) (i : Buf), ∃ t : State, exec (.scRelease i) s = .next t ∧
    (∀ k, BufSet.has t.swap.free k = (BufSet.has s.swap.free k || k == i)) ∧
    t = { s with swap := { s.swap with free := t.swap.free } }

/-- With `k` indices free exactly `k` acquires in a row succeed, whatever the draws, and the next
answers none (R97, derived in the spec). -/
def Obligations.FreeCountBoundsAcquires : Prop :=
  ∀ (s : State) (picks : List Buf) (pick : Buf) (t : Time), picks.length = BufSet.size s.swap.free →
    ∃ u v : State, runTimed (picks.map fun p => (t, .scAcquire p)) s = .next u ∧
      u.results = s.results
        ++ (List.range picks.length).map (fun k => .acquired (some (s.handles.length + k))) ∧
      (∀ i, BufSet.has u.swap.free i = false) ∧
      (∀ i, BufSet.has u.swap.acq i = (BufSet.has s.swap.acq i || BufSet.has s.swap.free i)) ∧
      exec (.scAcquire pick) u = .next v ∧ v = { u with results := u.results ++ [.acquired none] }

/-- The misuses of the host are refused by name: operations through a handle that is not held, or not
writable, and an aggregator step out of its order (R85, R170; decisions D31, D33). R170 speaks of a
handle that was already dropped: that one never acquired, which is not held either, is refused in the
same way is the model's reading (DEDUCED, log 15). -/
def Obligations.HostMisuseIsRefusedByName : Prop :=
  ∀ (s : State) (h : Nat) (x y : Int) (c : Bool),
    (s.handle? h = none →
      exec (.fbSet h x y c) s = .refused .handleNotHeld ∧ exec (.fbGet h x y) s = .refused .handleNotHeld ∧
      exec (.fbClear h c) s = .refused .handleNotHeld ∧ exec (.fbSetRaw h x y c) s = .refused .handleNotHeld ∧
      exec (.fbGetRaw h x y) s = .refused .handleNotHeld ∧
      exec (.scPresent h) s = .refused .handleNotHeld ∧ exec (.scDrop h) s = .refused .handleNotHeld) ∧
    (∀ hd : Handle, s.handle? h = some hd → (hd.presented = true ∨ BufSet.has s.swap.acq hd.idx = false) →
      exec (.fbSet h x y c) s = .refused .handleNotWritable ∧
      exec (.fbGet h x y) s = .refused .handleNotWritable ∧
      exec (.fbClear h c) s = .refused .handleNotWritable ∧
      exec (.fbSetRaw h x y c) s = .refused .handleNotWritable ∧
      exec (.fbGetRaw h x y) s = .refused .handleNotWritable) ∧
    (s.agg.aggPh ≠ .enc → exec .aggEnc s = .refused .aggOutOfOrder) ∧
    ((∀ k, s.agg.aggPh ≠ .btn k) → exec .aggBtn s = .refused .aggOutOfOrder) ∧
    (s.agg.aggPh ≠ .update → exec .aggUpdate s = .refused .aggOutOfOrder)

/-- Every agent step keeps the ownership discipline: each index in exactly one place, `acq` the
indices of the live handles, and a buffer in use from phase 2 on (R96, R51, R20, derived in the
spec). As R189 (b) says, this rests on the spec's decisions D10 (`SC.COLLECT` and the update of `cur`
are one step) and D41 (every swap-chain operation is one step); that the two swap-chain bodies are no
steps of their own is log 16. -/
def Obligations.StepKeepsOwnership : Prop :=
  ∀ (s t : State) (slot : Slot) (rest : List Slot), s.agenda = slot :: rest → slot.isAgentStep = true →
    s.Ownership → step s = .next t → t.Ownership

/-- In every reachable state each index is in exactly one place, and the buffer being scanned is not
writable (R96, R51, derived in the spec). It follows from the reset state and `StepKeepsOwnership`,
and rests like it on the spec's decisions D10 and D41 (R189 b). -/
def Obligations.ReachableBuffersHaveOnePlace : Prop :=
  ∀ s : State, Reachable s →
    s.Partition ∧ s.indexTwice = false ∧ ∀ b, s.scan.cur = some b → BufSet.has s.swap.acq b = false

/-- Whatever operation is taken, no byte changes of a buffer that is not acquired, and under the
ownership discipline none of the buffer in use (R51, R169; decision D33, and D10 and D41 for the
second clause, R189 b). -/
def Obligations.OnlyAcquiredBuffersChange : Prop :=
  ∀ (i : Instr) (s t : State), exec i s = .next t →
    (∀ b, BufSet.has s.swap.acq b = false → ∀ off, t.readByte b off = s.readByte b off) ∧
    (s.Ownership → ∀ b, s.scan.cur = some b → ∀ off, t.readByte b off = s.readByte b off)

/-! ### Encoder capture -/

/-- `ENC.EDGE` sets its own flag and nothing else (R120; flags by decision D17, free edges log 13). -/
def Obligations.EdgeSetsItsFlag : Prop :=
  ∀ s : State, ∀ p ∈ [(Instr.encEdgeAFall, (0 : Fin 4)), (.encEdgeARise, 1), (.encEdgeBFall, 2),
      (.encEdgeBRise, 3)],
    ∃ t : State, exec p.1 s = .next t ∧
      (∀ k : Fin 4, t.enc.encIf[k.val] = (k == p.2 || s.enc.encIf[k.val])) ∧
      t = { s with enc := { s.enc with encIf := t.enc.encIf } }

/-- `ENC.ENTER` takes the pending flags as the triggering ones, stamps the entry and starts the
settle delay; it saves and masks nothing (R121, R165; decision D17). -/
def Obligations.EnterSnapshotsFlags : Prop :=
  ∀ s : State, s.enc.encPh = .idle → s.enc.encIf ≠ 0#4 →
    exec .encEnter s = .next { s with
      enc := { s.enc with encTrig := s.enc.encIf, tEnc := s.now, encPh := .settling } }

/-- `ENC.EXIT` clears exactly the triggering flags; a flag of another kind survives (R126, R167; the
snapshot reading is decision D17). -/
def Obligations.ExitClearsTriggeringFlags : Prop :=
  ∀ s : State, s.enc.encPh = .decoded → ∃ t : State, exec .encExit s = .next t ∧
    (∀ k : Fin 4, t.enc.encIf[k.val] = (s.enc.encIf[k.val] && !s.enc.encTrig[k.val])) ∧
    t = { s with enc := { s.enc with encIf := t.enc.encIf, encPh := .idle } }

/-- The four forward transitions add one to the count, modulo `2^32`, and store the sampled state
(R122; decisions D13, D15, D18). -/
def Obligations.ForwardTransitionsAddOne : Prop :=
  ∀ s : State, s.enc.encPh = .settling → s.enc.tEnc + Config.encSettle ≤ s.now →
    ∀ p ∈ [(Instr.encTInc0001, 0b00#2, 0b01#2), (.encTInc0111, 0b01#2, 0b11#2),
      (.encTInc1110, 0b11#2, 0b10#2), (.encTInc1000, 0b10#2, 0b00#2)],
    s.enc.encPrev = p.2.1 → exec p.1 s = .next { s with
      enc := { s.enc with encCount := s.enc.encCount + 1, encPrev := p.2.2, encPh := .decoded } }

/-- The four reverse transitions subtract one from the count, modulo `2^32`, and store the sampled
state (R123; decisions D13, D15, D18). -/
def Obligations.ReverseTransitionsSubtractOne : Prop :=
  ∀ s : State, s.enc.encPh = .settling → s.enc.tEnc + Config.encSettle ≤ s.now →
    ∀ p ∈ [(Instr.encTDec0100, 0b01#2, 0b00#2), (.encTDec1101, 0b11#2, 0b01#2),
      (.encTDec1011, 0b10#2, 0b11#2), (.encTDec0010, 0b00#2, 0b10#2)],
    s.enc.encPrev = p.2.1 → exec p.1 s = .next { s with
      enc := { s.enc with encCount := s.enc.encCount - 1, encPrev := p.2.2, encPh := .decoded } }

/-- An unchanged state and an impossible transition leave the count; the sampled state is stored all
the same (R124, R125, R158; decisions D13, D14, D18). -/
def Obligations.UnchangedAndImpossibleKeepCount : Prop :=
  ∀ s : State, s.enc.encPh = .settling → s.enc.tEnc + Config.encSettle ≤ s.now →
    ∀ p ∈ [(Instr.encTHold0000, 0b00#2, 0b00#2), (.encTHold0101, 0b01#2, 0b01#2),
      (.encTHold1010, 0b10#2, 0b10#2), (.encTHold1111, 0b11#2, 0b11#2),
      (.encTRej0011, 0b00#2, 0b11#2), (.encTRej0110, 0b01#2, 0b10#2),
      (.encTRej1001, 0b10#2, 0b01#2), (.encTRej1100, 0b11#2, 0b00#2)],
    s.enc.encPrev = p.2.1 → exec p.1 s = .next { s with
      enc := { s.enc with encPrev := p.2.2, encPh := .decoded } }

/-- One detent: four handler runs along the forward sequence add exactly 4 to the count, and along
the reverse sequence subtract exactly 4, with any instants at which each run ends before the next
begins (R127, derived in the spec). -/
def Obligations.DetentIsFourCounts : Prop :=
  ∀ (s : State) (t1 t2 t3 t4 : Time), s.enc.encPh = .idle → s.enc.encPrev = 0b00#2 →
    s.now ≤ t1 → t1 + Config.encSettle ≤ t2 → t2 + Config.encSettle ≤ t3 → t3 + Config.encSettle ≤ t4 →
    (∃ u, runTimed (handlerRun .encEdgeBRise .encTInc0001 t1 ++ handlerRun .encEdgeARise .encTInc0111 t2
        ++ handlerRun .encEdgeBFall .encTInc1110 t3 ++ handlerRun .encEdgeAFall .encTInc1000 t4) s = .next u ∧
      u.enc.encCount = s.enc.encCount + 4 ∧ u.enc.encPrev = 0b00#2 ∧ u.enc.encPh = .idle ∧
      u.enc.encIf = 0#4 ∧ u = { s with enc := u.enc, now := t4 + Config.encSettle }) ∧
    (∃ u, runTimed (handlerRun .encEdgeARise .encTDec0010 t1 ++ handlerRun .encEdgeBRise .encTDec1011 t2
        ++ handlerRun .encEdgeAFall .encTDec1101 t3 ++ handlerRun .encEdgeBFall .encTDec0100 t4) s = .next u ∧
      u.enc.encCount = s.enc.encCount - 4 ∧ u.enc.encPrev = 0b00#2 ∧ u.enc.encPh = .idle ∧
      u.enc.encIf = 0#4 ∧ u = { s with enc := u.enc, now := t4 + Config.encSettle })

/-! ### Button capture -/

/-- `BTN.FIRE` sets the timer's flag and nothing else once the deadline has come (R135; decisions
D22, D40). -/
def Obligations.TimerFiresAtDeadline : Prop :=
  ∀ s : State, s.btn.btnDeadline ≤ s.now → s.btn.btnIf = false →
    exec .btnFire s = .next { s with btn := { s.btn with btnIf := true } }

/-- `BTN.SCAN`: the two sampled levels go to the slots of the active column, the select lines and
the column switch in one event, the firing is served and the timer re-armed (R136, R68; decisions
D12, D20, D21, D22, D40; the interval is the nominal one, log 8). -/
def Obligations.ButtonScanServesColumn : Prop :=
  ∀ (s : State) (r0 r1 : Level), s.btn.btnIf = true →
    (s.btn.btnCol = 0 → exec (.btnScanCol0 r0 r1) s = .next { s with
      btn := { btnCol := 1, btnRaw := #v[r0, r1, s.btn.btnRaw[2], s.btn.btnRaw[3]],
               colSel := #v[false, true], btnIf := false, btnDeadline := s.now + Config.tBtn },
      trace := s.trace ++ [⟨s.now, .pins .colSel false true⟩] }) ∧
    (s.btn.btnCol = 1 → exec (.btnScanCol1 r0 r1) s = .next { s with
      btn := { btnCol := 0, btnRaw := #v[s.btn.btnRaw[0], s.btn.btnRaw[1], r0, r1],
               colSel := #v[true, false], btnIf := false, btnDeadline := s.now + Config.tBtn },
      trace := s.trace ++ [⟨s.now, .pins .colSel true false⟩] })

/-- Every step keeps exactly one column selected, the one `btn_col` names (R137, derived in the
spec). -/
def Obligations.StepKeepsOneColumnSelected : Prop :=
  ∀ s t : State, s.OneColumnSelected → step s = .next t → t.OneColumnSelected

/-! ### Frame store -/

/-- The coordinate map is the spec's formula, and it is one to one onto the 8448 bits of a buffer
(R57; the formula is decision D3). -/
def Obligations.CoordinateMapIsBijective : Prop :=
  (∀ (x : Fin 132) (y : Fin 64),
    (pixelOffset x y).val
      = 48 * (x.val / 6) + (6 * y.val + ([0, 2, 4, 5, 3, 1] : List Nat)[x.val % 6]!) / 8 ∧
    (pixelBit x y).val = (6 * y.val + ([0, 2, 4, 5, 3, 1] : List Nat)[x.val % 6]!) % 8) ∧
  (∀ (x x' : Fin 132) (y y' : Fin 64), pixelOffset x y = pixelOffset x' y' →
    pixelBit x y = pixelBit x' y' → x = x' ∧ y = y') ∧
  (∀ (off : Offset) (bit : Fin 8), ∃ (x : Fin 132) (y : Fin 64),
    pixelOffset x y = off ∧ pixelBit x y = bit)

/-- `FB.SET` is the raw accessor inside the logical area and nothing outside it (R80). -/
def Obligations.SetChecksBoundsThenDelegates : Prop :=
  ∀ (s : State) (h : Nat) (b : Buf) (x y : Int) (c : Bool), s.Live h b →
    ((0 ≤ x ∧ x < 128) ∧ (0 ≤ y ∧ y < 64) → exec (.fbSet h x y c) s = exec (.fbSetRaw h x y c) s ∧
      ∃ t, exec (.fbSet h x y c) s = .next t) ∧
    (¬ ((0 ≤ x ∧ x < 128) ∧ (0 ≤ y ∧ y < 64)) → exec (.fbSet h x y c) s = .next s)

/-- `FB.GET` answers what the raw accessor answers inside the logical area, and unlit outside it; it
writes no state but the model's log of answers (R81; log 18). -/
def Obligations.GetChecksBoundsThenDelegates : Prop :=
  ∀ (s : State) (h : Nat) (b : Buf) (x y : Int), s.Live h b →
    ((0 ≤ x ∧ x < 128) ∧ (0 ≤ y ∧ y < 64) → exec (.fbGet h x y) s = exec (.fbGetRaw h x y) s ∧
      ∃ v, exec (.fbGet h x y) s = .next { s with results := s.results ++ [.pixel v] }) ∧
    (¬ ((0 ≤ x ∧ x < 128) ∧ (0 ≤ y ∧ y < 64)) →
      exec (.fbGet h x y) s = .next { s with results := s.results ++ [.pixel false] })

/-- `FB.SET_RAW` makes exactly one bit of one byte the colour, and is refused outside the raw range
(R82; map and refusal by decision D3). -/
def Obligations.SetRawChangesOneBit : Prop :=
  ∀ (s : State) (h : Nat) (b : Buf) (c : Bool), s.Live h b →
    (∀ (x : Fin 132) (y : Fin 64), ∃ t : State,
      exec (.fbSetRaw h (x.val : Int) (y.val : Int) c) s = .next t ∧ t = { s with fs := t.fs } ∧
      ∀ (b' : Buf) (off : Offset) (bit : Fin 8), (t.readByte b' off)[bit.val] =
        if b' = b ∧ off = pixelOffset x y ∧ bit = pixelBit x y then c
        else (s.readByte b' off)[bit.val]) ∧
    (∀ x y : Int, ¬ ((0 ≤ x ∧ x < 132) ∧ (0 ≤ y ∧ y < 64)) →
      exec (.fbSetRaw h x y c) s = .refused .rawOutOfRange)

/-- `FB.GET_RAW` answers exactly one bit, changes no state but the model's log of answers, and is
refused outside the raw range (R83; decision D3, log 18). -/
def Obligations.GetRawReadsOneBit : Prop :=
  ∀ (s : State) (h : Nat) (b : Buf), s.Live h b →
    (∀ (x : Fin 132) (y : Fin 64), exec (.fbGetRaw h (x.val : Int) (y.val : Int)) s = .next { s with
      results := s.results ++ [.pixel (s.readByte b (pixelOffset x y))[(pixelBit x y).val]] }) ∧
    (∀ x y : Int, ¬ ((0 ≤ x ∧ x < 132) ∧ (0 ≤ y ∧ y < 64)) →
      exec (.fbGetRaw h x y) s = .refused .rawOutOfRange)

/-- `FB.CLEAR` makes every byte of its buffer `0xFF` or `0x00` and touches no other buffer (R84; the
fill of each colour is derived in R42). -/
def Obligations.ClearFillsWholeBuffer : Prop :=
  ∀ (s : State) (h : Nat) (b : Buf) (c : Bool), s.Live h b → ∃ t : State,
    exec (.fbClear h c) s = .next t ∧ t = { s with fs := t.fs } ∧
    ∀ (b' : Buf) (off : Offset),
      t.readByte b' off = if b' = b then (if c then 0xFF#8 else 0x00#8) else s.readByte b' off

/-- Bit-mapping round trip: after `FB.SET` of a pixel, `FB.GET` gives the colour there and at every
other coordinate of the logical area what it gave before (R86 a, derived in the spec; decision D3). -/
def Obligations.SetThenGetRoundTrip : Prop :=
  ∀ (s : State) (h : Nat) (b : Buf) (x x' : Fin 128) (y y' : Fin 64) (c : Bool), s.Live h b →
    ∃ (t : State) (old : Bool), exec (.fbSet h (x.val : Int) (y.val : Int) c) s = .next t ∧
      exec (.fbGet h (x'.val : Int) (y'.val : Int)) s
        = .next { s with results := s.results ++ [.pixel old] } ∧
      exec (.fbGet h (x'.val : Int) (y'.val : Int)) t = .next { t with
        results := t.results ++ [.pixel (if x' = x ∧ y' = y then c else old)] }

/-- Every step keeps the frame store's list of bytes in its canonical form (the model's own form of
R31, R40; log 10). -/
def Obligations.StepKeepsFrameStoreForm : Prop :=
  ∀ s t : State, Memory.wf s.fs = true → step s = .next t → Memory.wf t.fs = true

/-! ### Input aggregator -/

/-- `AGG.ENC` loads the count and `AGG.BTN` the level of its slot; neither writes any state of the
core (R145, R146, R154; order by decision D35). -/
def Obligations.AggregatorLoadsOneValue : Prop :=
  ∀ s : State,
    (s.agg.aggPh = .enc → exec .aggEnc s = .next { s with
      agg := { s.agg with aggTCount := s.enc.encCount, aggPh := .btn 0 } }) ∧
    (∀ k : Fin 4, s.agg.aggPh = .btn k → ∃ t : State, exec .aggBtn s = .next t ∧
      (∀ j : Fin 4, t.agg.aggTLvl[j] = if j = k then s.btn.btnRaw[k] else s.agg.aggTLvl[j]) ∧
      t.agg.aggPh.code = s.agg.aggPh.code + 1 ∧
      t = { s with agg := { s.agg with aggTLvl := t.agg.aggTLvl, aggPh := t.agg.aggPh } })

/-- `AGG.UPDATE`: the detent count is the loaded count divided by 4 toward zero, the delta its change
since the last run modulo `2^32`, and each logical button's level and edges are those of its slot
(R147, R148, R149; decisions D23 to D26; log 7, 18). -/
def Obligations.UpdateReportsDetentsAndEdges : Prop :=
  ∀ s : State, s.agg.aggPh = .update → ∃ (t : State) (r : InputState),
    exec .aggUpdate s = .next t ∧
    r.encoder.count.toInt = s.agg.aggTCount.toInt.tdiv 4 ∧
    r.encoder.delta = r.encoder.count - s.agg.aggPrevDetent ∧
    (∀ k : Fin 4, r.ofButton (Config.buttonMap k) =
      { down := s.agg.aggTLvl[k],
        pressed := s.agg.aggTLvl[k] && !s.agg.aggPrevBtn[k],
        released := !s.agg.aggTLvl[k] && s.agg.aggPrevBtn[k] }) ∧
    t = { s with
      agg := { s.agg with aggPrevDetent := r.encoder.count, aggPrevBtn := s.agg.aggTLvl, aggPh := .enc },
      results := s.results ++ [.input r] }

/-- The difference taken two ways is the difference modulo `2^32` of least magnitude, the tie going
to `-2^31` (R149; decision D25). -/
def Obligations.WrapTolerantDifferenceIsWrap32 : Prop :=
  ∀ prev new : Count, wdelta prev.toInt new.toInt = (BitVec.ofInt 32 (new.toInt - prev.toInt)).toInt

/-- Between detent counts of the machine the second interpretation is never selected (R150, derived
in the spec). -/
def Obligations.DetentDifferenceIsPlain : Prop :=
  ∀ c c' : Count, wdelta (detents c) (detents c') = detents c' - detents c

/-! ### The whole machine -/

/-- No operation writes state outside its agent's row of the access table (R169; decision D33; the
log of answers, `results`, is the model's own). -/
def Obligations.AgentsWriteOnlyTheirOwnState : Prop :=
  ∀ (i : Instr) (s t : State), exec i s = .next t →
    (i.agent = .scan → t = { s with
      scan := t.scan, bus := t.bus, trace := t.trace, results := t.results,
      swap := { s.swap with free := t.swap.free, pending := t.swap.pending } }) ∧
    (i.agent = .enc → t = { s with enc := t.enc } ∧
      ∀ k : Fin 4, t.enc.encIf[k.val] = true → s.enc.encIf[k.val] = true) ∧
    (i.agent = .btn → t = { s with btn := t.btn, trace := t.trace }) ∧
    (i.agent = .host → t = { s with
      swap := t.swap, fs := t.fs, agg := t.agg, handles := t.handles, results := t.results }) ∧
    (i.agent = .env → t = { s with
      bus := t.bus, trace := t.trace,
      enc := { s.enc with encIf := t.enc.encIf }, btn := { s.btn with btnIf := t.btn.btnIf } })

/-- The two interrupt handlers share no state, so their steps may be taken in either order with the
same outcome (R164; decision D27). -/
def Obligations.HandlersCommute : Prop :=
  ∀ (i j : Instr) (s t u : State),
    (i.agent = .enc ∧ j.agent = .btn) ∨ (i.agent = .btn ∧ j.agent = .enc) →
    exec i s = .next t → exec j t = .next u → ∃ v, exec j s = .next v ∧ exec i v = .next u

/-- Time never decreases, and a step only appends to the trace, at its own instant (R35, R197). -/
def Obligations.TraceGrowsInTimeOrder : Prop :=
  ∀ s t : State, step s = .next t → s.now ≤ t.now ∧
    ∃ new : List TraceEntry, t.trace = s.trace ++ new ∧ ∀ e ∈ new, e.time = t.now

/-- Every step keeps the serial queues empty outside the phases between emission and flush: no byte
is delivered after `SCAN.BLANK_ON` of its own cycle (R52, R187). -/
def Obligations.StepKeepsQueuesFlushedBeforeLatch : Prop :=
  ∀ s t : State, s.QueuesFollowPhase → step s = .next t → t.QueuesFollowPhase

/-- Every step keeps the control-line events in the order `BLANK` 0, `LATCH` 0, `LATCH` 1, `BLANK` 1
with at least 100 ns between each and 5000 ns before each `BLANK` 0 (R116, R186 d, R198, derived in
the spec), and time and the instants stamped non-negative and past (R7, R197). -/
def Obligations.StepKeepsControlSequence : Prop :=
  ∀ s t : State, s.ControlSafe → step s = .next t → t.ControlSafe

/-- The state after reset has every invariant (R36, R96, R137; the reset values are decisions of the
spec, D9, D11, D17, D21, D22). -/
def Obligations.ResetHasEveryInvariant : Prop :=
  State.reset.Ownership ∧ State.reset.OneColumnSelected ∧
  State.reset.QueuesFollowPhase ∧ State.reset.ControlSafe ∧
  Memory.wf State.reset.fs = true

/-- The reset values of the table of R36 (all but `pending`, `free` and `acq` are decisions of the
spec, D9 to D42; `enc_prev` is its default, log 9, and `T_BTN` nominal, log 8). -/
def Obligations.ResetValues : Prop :=
  State.reset.scan.ph.code = 0 ∧ State.reset.scan.g.val = 1 ∧ State.reset.scan.cur = none ∧
  State.reset.scan.rel = none ∧ State.reset.scan.tArm = 0 ∧ State.reset.scan.tCtl = 0 ∧
  State.reset.scan.blank = #v[false, false] ∧ State.reset.scan.latch = #v[true, true] ∧
  State.reset.bus = { pixq := [], gridq := [] } ∧
  (∀ i, BufSet.has State.reset.swap.free i = true ∧ BufSet.has State.reset.swap.acq i = false) ∧
  State.reset.swap.pending = none ∧
  State.reset.enc.encPrev = 0b00#2 ∧ State.reset.enc.encIf = 0 ∧ State.reset.enc.encCount = 0 ∧
  State.reset.enc.encPh.code = 0 ∧ State.reset.enc.encTrig = 0 ∧ State.reset.enc.tEnc = 0 ∧
  State.reset.btn.btnCol = 0 ∧ State.reset.btn.btnRaw = #v[false, false, false, false] ∧
  State.reset.btn.colSel = #v[true, false] ∧ State.reset.btn.btnIf = false ∧
  State.reset.btn.btnDeadline = 5000000 ∧
  State.reset.agg.aggPrevDetent = 0 ∧ State.reset.agg.aggPrevBtn = #v[false, false, false, false] ∧
  State.reset.agg.aggPh.code = 0 ∧ State.reset.agg.aggTCount = 0 ∧
  State.reset.agg.aggTLvl = #v[false, false, false, false] ∧
  State.reset.trace = [] ∧ State.reset.now = 0 ∧ ∀ h, State.reset.handle? h = none
end

