-- ==== Sys2Proof/Laws/Decode.lean ====
section
/-! SUPPORT. Each operand that is written is read back, with the bytes behind it, and what is read is
what would have been written (log 1). -/

namespace Sys2Proof

@[simp] theorem withOperand_ok {α β : Type} (a : α) (rest : List Byte) (k : α → List Byte → Decoded β) :
    withOperand (.ok (a, rest)) k = k a rest := rfl

@[simp] theorem withOperand_error {α β : Type} (e : DecodeError) (k : α → List Byte → Decoded β) :
    withOperand (.error e) k = .error e := rfl

/-- An operand either was read, or the operation is rejected for the same reason. -/
theorem withOperand_eq_ok {α β : Type} {r : Decoded α} {k : α → List Byte → Decoded β} {x : β × List Byte}
    (h : withOperand r k = .ok x) : ∃ a rest, r = .ok (a, rest) ∧ k a rest = .ok x := by
  cases r with
  | error e => cases h
  | ok p => exact ⟨p.1, p.2, rfl, h⟩

/-- A number that is written, with fuel enough, is read back. -/
theorem takeNat_putNatFuel (fuel n : Nat) (rest : List Byte) (hf : n ≤ fuel) :
    takeNat (putNatFuel fuel n ++ rest) = .ok (n, rest) := by
  induction fuel generalizing n with
  | zero =>
    obtain rfl : n = 0 := by omega
    rfl
  | succ fuel ih =>
    unfold putNatFuel
    split
    · rename_i h
      have e : (BitVec.ofNat 8 n).toNat = n := by rw [BitVec.toNat_ofNat]; exact Nat.mod_eq_of_lt (by omega)
      simp only [List.cons_append, List.nil_append, takeNat, e, if_pos h]
    · rename_i h
      have e : (BitVec.ofNat 8 (n % 128 + 128)).toNat = n % 128 + 128 := by
        rw [BitVec.toNat_ofNat]; exact Nat.mod_eq_of_lt (by omega)
      simp only [List.cons_append, takeNat, e, if_neg (show ¬ n % 128 + 128 < 128 by omega)]
      rw [ih (n / 128) (by omega), withOperand_ok, if_neg (by omega)]
      congr 2
      omega

@[simp] theorem takeHandle_putHandle (h : Nat) (rest : List Byte) :
    takeHandle (putHandle h ++ rest) = .ok (h, rest) := takeNat_putNatFuel h h rest (le_refl h)

@[simp] theorem intOfCode_codeOfInt (x : Int) : intOfCode (codeOfInt x) = x := by
  cases x with
  | ofNat n => simp [intOfCode, codeOfInt]
  | negSucc n =>
    rw [codeOfInt, intOfCode, if_neg (by omega), show (2 * n + 1) / 2 = n by omega]

theorem codeOfInt_intOfCode (n : Nat) : codeOfInt (intOfCode n) = n := by
  unfold intOfCode
  split
  · rw [codeOfInt]; omega
  · rw [codeOfInt]; omega

@[simp] theorem takeCoord_putCoord (x : Int) (rest : List Byte) :
    takeCoord (putCoord x ++ rest) = .ok (x, rest) := by
  simp only [takeCoord, putCoord, putNat, takeNat_putNatFuel _ _ rest (le_refl _), withOperand_ok,
    intOfCode_codeOfInt]

@[simp] theorem takeFlag_putFlag (c : Bool) (rest : List Byte) :
    takeFlag (putFlag c ++ rest) = .ok (c, rest) := by
  cases c <;> simp [takeFlag, putFlag]

@[simp] theorem takeBuf_putBuf (i : Buf) (rest : List Byte) :
    takeBuf (putBuf i ++ rest) = .ok (i, rest) := by
  have hi := i.isLt
  have h : (BitVec.ofNat 8 i.val).toNat = i.val := by
    rw [BitVec.toNat_ofNat]; exact Nat.mod_eq_of_lt (by omega)
  simp only [takeBuf, putBuf, List.cons_append, List.nil_append, h]
  rw [dif_pos hi]

/-! What is read is exactly what would have been written. -/

theorem ofNat_of_toNat {b : Byte} {n : Nat} (h : b.toNat = n) : b = BitVec.ofNat 8 n := by
  rw [← h]; simp

/-- The bytes a number was read from are the ones it is written in, with any fuel that is enough. -/
theorem takeNat_eq_ok {bs rest : List Byte} {n : Nat} (h : takeNat bs = .ok (n, rest)) (fuel : Nat)
    (hf : n ≤ fuel) : bs = putNatFuel fuel n ++ rest := by
  induction bs generalizing n fuel with
  | nil => cases h
  | cons b bs ih =>
    unfold takeNat at h
    split at h
    · rename_i hb
      cases h
      cases fuel with
      | zero => rw [putNatFuel, ← ofNat_of_toNat rfl]; rfl
      | succ fuel => rw [putNatFuel, if_pos hb, ← ofNat_of_toNat rfl]; rfl
    · rename_i hb
      obtain ⟨high, r, e, k⟩ := withOperand_eq_ok h
      split at k
      · cases k
      · rename_i hne
        cases k
        have hlt := b.isLt
        cases fuel with
        | zero => omega
        | succ fuel =>
          rw [putNatFuel, if_neg (by omega),
            show (b.toNat - 128 + 128 * high) % 128 + 128 = b.toNat by omega,
            show (b.toNat - 128 + 128 * high) / 128 = high by omega, ← ofNat_of_toNat rfl,
            List.cons_append, ← ih e fuel (by omega)]

theorem takeHandle_eq_ok {bs rest : List Byte} {h : Nat} (e : takeHandle bs = .ok (h, rest)) :
    bs = putHandle h ++ rest := takeNat_eq_ok e h (le_refl h)

theorem takeCoord_eq_ok {bs rest : List Byte} {x : Int} (e : takeCoord bs = .ok (x, rest)) :
    bs = putCoord x ++ rest := by
  obtain ⟨n, r, e1, e2⟩ := withOperand_eq_ok e
  cases e2
  rw [putCoord, codeOfInt_intOfCode, putNat]
  exact takeNat_eq_ok e1 n (le_refl n)

theorem takeFlag_eq_ok {bs rest : List Byte} {c : Bool} (e : takeFlag bs = .ok (c, rest)) :
    bs = putFlag c ++ rest := by
  unfold takeFlag at e
  split at e
  · split at e
    · cases e; simp_all [putFlag]
    · split at e
      · cases e; simp_all [putFlag]
      · cases e
  · cases e

theorem takeBuf_eq_ok {bs rest : List Byte} {i : Buf} (e : takeBuf bs = .ok (i, rest)) :
    bs = putBuf i ++ rest := by
  unfold takeBuf at e
  split at e
  · split at e
    · cases e; simp [putBuf]
    · cases e
  · cases e

end Sys2Proof
end

