-- ==== Sys2Proof/Laws/Operands.lean ====
section
/-! SUPPORT. The small lemmas of the operand forms (20_memory.md R57, R58, 30_encoding.md R61 to R68,
45_input_aggregator.md R148). -/

namespace Sys2Proof.Machine

/-- Bit `i` of `rev8(b)` is bit `7-i` of `b` (R6). -/
@[simp] theorem rev8_getElem (b : Byte) (i : Fin 8) : (rev8 b)[i.val] = b[7 - i.val] := by
  unfold rev8
  exact BitVec.getElem_ofFnLE _ _ _

@[simp] theorem wireBits_length (b : Byte) : (wireBits b).length = 8 := by simp [wireBits]

@[simp] theorem pixelOffset_val (x : Fin 132) (y : Fin 64) :
    (pixelOffset x y).val = 48 * (x.val / 6) + groupBit x y / 8 := rfl

@[simp] theorem pixelBit_val (x : Fin 132) (y : Fin 64) : (pixelBit x y).val = groupBit x y % 8 := rfl

@[simp] theorem columnOf_val (g : GridLine) : (columnOf g).val = (g.val - 1) / 2 := rfl

@[simp] theorem nextLine_val (g : GridLine) : (nextLine g).val = g.val % 43 + 1 := rfl

@[simp] theorem sliceOffset_val (c : Fin 22) (i : Fin 48) : (sliceOffset c i).val = 48 * c.val + i.val := rfl

@[simp] theorem slotOf_val (col row : Fin 2) : (slotOf col row).val = 2 * col.val + row.val := rfl

@[simp] theorem otherCol_otherCol (c : Fin 2) : otherCol (otherCol c) = c := by revert c; decide

theorem otherCol_ne (c : Fin 2) : otherCol c ≠ c := by revert c; decide

/-- Every line has exactly the class the spec gives it (R61). -/
theorem classOf_eq_a (g : GridLine) : classOf g = .a ↔ g.val % 2 = 1 ∧ g.val ≠ 43 := by
  unfold classOf; split <;> (try split) <;> simp_all

theorem classOf_eq_b (g : GridLine) : classOf g = .b ↔ g.val % 2 = 0 := by
  unfold classOf; split <;> (try split) <;> simp_all

theorem classOf_eq_c (g : GridLine) : classOf g = .c ↔ g.val = 43 := by
  unfold classOf; split <;> (try split) <;> simp_all

/-- A detent count lies well inside 32 bits (R148). -/
theorem detents_range (c : Count) : -2 ^ 29 ≤ detents c ∧ detents c < 2 ^ 29 := by
  have h1 := BitVec.le_toInt c
  have h2 := BitVec.toInt_lt (x := c)
  unfold detents
  rcases lt_or_ge c.toInt 0 with h | h
  · obtain ⟨n, hn⟩ := Int.eq_negSucc_of_lt_zero h
    rw [hn] at h1 ⊢
    have : (Int.negSucc n).tdiv 4 = -(((n + 1) / 4 : Nat) : Int) := rfl
    omega
  · rw [Int.tdiv_eq_ediv_of_nonneg h]
    omega

end Sys2Proof.Machine
end

