-- ==== Sys2Proof/Laws/Effects.lean ====
section
/-! SUPPORT. What each operation can do, said once: if `exec` answers a next state, then that state
is one of those listed here, with the conditions under which it is. Claims about every operation
split on this and unfold no meaning. -/

namespace Sys2Proof.Machine

/-- What an operation of the scanner, of the swap chain's two bodies or of a bus makes of `s`
(R93, R94, R100 to R115). -/
inductive ScanEffect (s : State) : Instr → State → Prop where
  | refreshSome (j : Buf) : s.scan.ph = .refresh → s.swap.pending = some j →
      ScanEffect s .scanRefresh ((s.withSwap { s.swap with pending := none }).withScan
        { s.scan with rel := s.scan.cur, cur := some j, ph := .release })
  | refreshNone : s.scan.ph = .refresh → s.swap.pending = none →
      ScanEffect s .scanRefresh (s.withScan { s.scan with ph := .release })
  | releaseSome (j : Buf) (p : ScanPhase) : s.scan.ph = .release → s.scan.rel = some j →
      (s.scan.cur = none ∧ p = .refresh ∨ s.scan.cur ≠ none ∧ p = .pix) →
      ScanEffect s .scanRelease ((s.withSwap (s.swap.release j)).withScan { s.scan with rel := none, ph := p })
  | releaseNone (p : ScanPhase) : s.scan.ph = .release → s.scan.rel = none →
      (s.scan.cur = none ∧ p = .refresh ∨ s.scan.cur ≠ none ∧ p = .pix) →
      ScanEffect s .scanRelease (s.withScan { s.scan with ph := p })
  | pixA (b : Buf) : s.scan.ph = .pix → s.scan.cur = some b → classOf s.scan.g = .a →
      ScanEffect s .scanPixA ((s.emitPix (pixStream48 s b Config.patternA)).toPhase .grid)
  | pixB (b : Buf) : s.scan.ph = .pix → s.scan.cur = some b → classOf s.scan.g = .b →
      ScanEffect s .scanPixB ((s.emitPix (pixStream48 s b Config.patternB)).toPhase .grid)
  | pixC (b : Buf) : s.scan.ph = .pix → s.scan.cur = some b → classOf s.scan.g = .c →
      ScanEffect s .scanPixC ((s.emitPix (pixStream16 s b)).toPhase .grid)
  | grid : s.scan.ph = .grid →
      ScanEffect s .scanGrid ((s.emitGrid (List.ofFn (gridByte s.scan.g))).toPhase .flush)
  | flush : s.scan.ph = .flush → s.bus.pixq = [] → s.bus.gridq = [] →
      ScanEffect s .scanFlush (s.toPhase .waitwin)
  | waitwin : s.scan.ph = .waitwin → s.scan.tArm + Config.tWindow ≤ s.now →
      ScanEffect s .scanWaitwin (s.toPhase .blankOn)
  | blankOn : s.scan.ph = .blankOn →
      ScanEffect s .scanBlankOn ((s.driveBlank false).stampCtl.toPhase .latchLo)
  | latchLo : s.scan.ph = .latchLo → s.scan.tCtl + Config.tCtrl ≤ s.now →
      ScanEffect s .scanLatchLo ((s.driveLatch false).stampCtl.toPhase .latchHi)
  | latchHi : s.scan.ph = .latchHi → s.scan.tCtl + Config.tCtrl ≤ s.now →
      ScanEffect s .scanLatchHi ((s.driveLatch true).stampCtl.toPhase .blankOff)
  | blankOff : s.scan.ph = .blankOff → s.scan.tCtl + Config.tCtrl ≤ s.now →
      ScanEffect s .scanBlankOff ((s.driveBlank true).toPhase .arm)
  | arm : s.scan.ph = .arm →
      ScanEffect s .scanArm ((s.withScan { s.scan with tArm := s.now }).toPhase .adv)
  | adv : s.scan.ph = .adv →
      ScanEffect s .scanAdv ((s.withScan { s.scan with g := nextLine s.scan.g }).toPhase .refresh)
  | collect : ScanEffect s .scCollect
      ((s.withSwap { s.swap with pending := none }).answer (.collected s.swap.pending))
  | release (j : Buf) : ScanEffect s (.scRelease j) (s.withSwap (s.swap.release j))
  | deliverPix (b : Byte) (rest : List Byte) : s.bus.pixq = b :: rest →
      ScanEffect s .busDeliverPix ((s.withBus { s.bus with pixq := rest }).emitEvent (.pix b))
  | deliverGrid (b : Byte) (rest : List Byte) : s.bus.gridq = b :: rest →
      ScanEffect s .busDeliverGrid ((s.withBus { s.bus with gridq := rest }).emitEvent (.grid b))
  | dropPix (b : Byte) (rest : List Byte) : s.bus.pixq = b :: rest →
      ScanEffect s .busDropPix (s.withBus { s.bus with pixq := rest })
  | dropGrid (b : Byte) (rest : List Byte) : s.bus.gridq = b :: rest →
      ScanEffect s .busDropGrid (s.withBus { s.bus with gridq := rest })

/-- What an operation of an interrupt handler or of an input makes of `s` (R120 to R126, R135, R136). -/
inductive InputEffect (s : State) (i : Instr) : State → Prop where
  | sample (new : BitVec 2) (count : Count) : i.agent = .enc → s.enc.encPh = .settling →
      s.enc.tEnc + Config.encSettle ≤ s.now →
      InputEffect s i (s.withEnc { s.enc with encCount := count, encPrev := new, encPh := .decoded })
  | enter : i = .encEnter → s.enc.encPh = .idle → encPending s.enc = true → InputEffect s i s.encEntry
  | exit : i = .encExit → s.enc.encPh = .decoded → InputEffect s i s.encReturn
  | edge (k : EdgeKind) : i.agent = .env →
      InputEffect s i (s.withEnc { s.enc with encIf := setEdgeFlag s.enc.encIf k })
  | fire : i = .btnFire → timerExpired s.btn s.now = true →
      InputEffect s i (s.withBtn { s.btn with btnIf := true })
  | scan (r0 r1 : Level) : i.agent = .btn → s.btn.btnIf = true →
      InputEffect s i (((s.withBtn { s.btn with
          btnRaw := storeRows s.btn.btnRaw s.btn.btnCol r0 r1,
          colSel := switchColumn s.btn.colSel s.btn.btnCol, btnCol := otherCol s.btn.btnCol }).emitEvent
        (.pins .colSel (switchColumn s.btn.colSel s.btn.btnCol)[0]
          (switchColumn s.btn.colSel s.btn.btnCol)[1])).btnReturn)

/-- What an operation of the host makes of `s` (R80 to R92, R145 to R147). -/
inductive HostEffect (s : State) (i : Instr) : State → Prop where
  | pixel (h : Nat) (b : Buf) (x : Fin 132) (y : Fin 64) (c : Bool) :
      s.handle? h = some { idx := b, presented := false } → BufSet.has s.swap.acq b = true →
      HostEffect s i (s.writePixel b x y c)
  | clear (h : Nat) (b : Buf) (c : Bool) :
      s.handle? h = some { idx := b, presented := false } → BufSet.has s.swap.acq b = true →
      HostEffect s i (s.fillBuffer b (fillByte c))
  | read (v : Bool) : HostEffect s i (s.answer (.pixel v))
  | acquireNone (pick : Buf) : i = .scAcquire pick → (∀ j, BufSet.has s.swap.free j = false) →
      HostEffect s i (s.answer (.acquired none))
  | acquireSome (pick j : Buf) : i = .scAcquire pick → BufSet.has s.swap.free j = true →
      HostEffect s i (((s.withSwap (s.swap.take j)).grantHandle j).answer (.acquired (some s.handles.length)))
  | present (h : Nat) (j : Buf) : i = .scPresent h → s.handle? h = some { idx := j, presented := false } →
      HostEffect s i ((s.withSwap (s.swap.publish j)).markPresented h { idx := j, presented := false })
  | dropPresented (h : Nat) (j : Buf) : i = .scDrop h → s.handle? h = some { idx := j, presented := true } →
      HostEffect s i (s.endHandle h)
  | dropLive (h : Nat) (j : Buf) : i = .scDrop h → s.handle? h = some { idx := j, presented := false } →
      HostEffect s i ((s.withSwap (s.swap.giveBack j)).endHandle h)
  | aggLoad (agg : Aggregator) : HostEffect s i (s.withAgg agg)
  | aggReport (r : InputState) (agg : Aggregator) : HostEffect s i ((s.answer (.input r)).withAgg agg)

theorem rawSet_next {b : Buf} {x y : Int} {c : Bool} {s t : State} (h : rawSet b x y c s = .next t) :
    ∃ x' y', t = s.writePixel b x' y' c := by
  unfold rawSet at h
  split at h <;> cases h
  exact ⟨_, _, rfl⟩

theorem rawGet_next {b : Buf} {x y : Int} {s t : State} (h : rawGet b x y s = .next t) :
    ∃ v, t = s.answer (.pixel v) := by
  unfold rawGet at h
  split at h <;> cases h
  exact ⟨_, rfl⟩

/-- An operation through a handle that answers a next state has run on the handle's buffer. -/
theorem withLiveHandle_next {h : Nat} {s t : State} {k : Buf → Out} (e : withLiveHandle h s k = .next t) :
    ∃ b, s.handle? h = some { idx := b, presented := false } ∧ BufSet.has s.swap.acq b = true ∧
      k b = .next t := by
  rcases withLiveHandle_cases h s k with ⟨_, e'⟩ | ⟨_, _, _, e'⟩ | ⟨b, h1, h2, e'⟩ <;> rw [e'] at e
  · cases e
  · cases e
  · exact ⟨b, h1, h2, e⟩

/-- The transition operations sample, or hold. -/
theorem encTransition_effect {i : Instr} (hi : i.agent = .enc) {prev new : BitVec 2} {s t : State}
    (h : encTransition prev new s = .next t) : t = s ∨ InputEffect s i t := by
  rcases encTransition_cases prev new s with ⟨h1, -, h3, e⟩ | e <;> rw [e] at h <;> cases h
  · exact .inr (.sample _ _ hi h1 h3)
  · exact .inl rfl

/-- The button handler serves its column, or holds. -/
theorem scanColumn_effect {i : Instr} (hi : i.agent = .btn) {col : Fin 2} {r0 r1 : Level} {s t : State}
    (h : scanColumn col r0 r1 s = .next t) : t = s ∨ InputEffect s i t := by
  rcases scanColumn_cases col r0 r1 s with ⟨h1, rfl, e⟩ | e <;> rw [e] at h <;> cases h
  · exact .inr (.scan _ _ hi h1)
  · exact .inl rfl

/-- Everything an operation can do: nothing, or one of the listed effects of its agent. -/
theorem exec_next {i : Instr} {s t : State} (h : exec i s = .next t) :
    t = s ∨ ScanEffect s i t ∨ InputEffect s i t ∨ (i.agent = .host ∧ HostEffect s i t) := by
  cases i <;> simp only [exec] at h
  case scanRefresh =>
    rcases whenEnabled_next h with ⟨hc, rfl⟩ | ⟨-, rfl⟩
    · simp only [State.atPhase, beq_iff_eq] at hc
      obtain ⟨scan, bus, ⟨free, pending, acq⟩, enc, btn, fs, agg, handles, now, trace, results, agenda⟩ := s
      cases pending with
      | some j => exact .inr (.inl (.refreshSome j hc rfl))
      | none => exact .inr (.inl (.refreshNone hc rfl))
    · exact .inl rfl
  case scanRelease =>
    rcases whenEnabled_next h with ⟨hc, rfl⟩ | ⟨-, rfl⟩
    · simp only [State.atPhase, beq_iff_eq] at hc
      obtain ⟨⟨ph, g, cur, rel, tArm, tCtl, blank, latch⟩, bus, swap, enc, btn, fs, agg, handles, now, trace,
        results, agenda⟩ := s
      cases rel <;> cases cur
      · exact .inr (.inl (.releaseNone _ hc rfl (.inl ⟨rfl, rfl⟩)))
      · exact .inr (.inl (.releaseNone _ hc rfl (.inr ⟨Option.some_ne_none _, rfl⟩)))
      · exact .inr (.inl (.releaseSome _ _ hc rfl (.inl ⟨rfl, rfl⟩)))
      · exact .inr (.inl (.releaseSome _ _ hc rfl (.inr ⟨Option.some_ne_none _, rfl⟩)))
    · exact .inl rfl
  case scanPixA =>
    rcases pixLine_cases .a (fun b => pixStream48 s b Config.patternA) s with ⟨b, h1, h2, h3, e⟩ | e <;>
      cases e.symm.trans h
    · exact .inr (.inl (.pixA b h2 h1 h3))
    · exact .inl rfl
  case scanPixB =>
    rcases pixLine_cases .b (fun b => pixStream48 s b Config.patternB) s with ⟨b, h1, h2, h3, e⟩ | e <;>
      cases e.symm.trans h
    · exact .inr (.inl (.pixB b h2 h1 h3))
    · exact .inl rfl
  case scanPixC =>
    rcases pixLine_cases .c (pixStream16 s) s with ⟨b, h1, h2, h3, e⟩ | e <;> cases e.symm.trans h
    · exact .inr (.inl (.pixC b h2 h1 h3))
    · exact .inl rfl
  case scanGrid =>
    rcases whenEnabled_next h with ⟨hc, rfl⟩ | ⟨-, rfl⟩
    · exact .inr (.inl (.grid (by simpa [State.atPhase] using hc)))
    · exact .inl rfl
  case scanFlush =>
    rcases whenEnabled_next h with ⟨hc, rfl⟩ | ⟨-, rfl⟩
    · simp only [State.atPhase, Bool.and_eq_true, beq_iff_eq, List.isEmpty_iff] at hc
      exact .inr (.inl (.flush hc.1.1 hc.1.2 hc.2))
    · exact .inl rfl
  case scanWaitwin =>
    rcases whenEnabled_next h with ⟨hc, rfl⟩ | ⟨-, rfl⟩
    · simp only [State.atPhase, Bool.and_eq_true, beq_iff_eq, decide_eq_true_eq] at hc
      exact .inr (.inl (.waitwin hc.1 hc.2))
    · exact .inl rfl
  case scanBlankOn =>
    rcases whenEnabled_next h with ⟨hc, rfl⟩ | ⟨-, rfl⟩
    · exact .inr (.inl (.blankOn (by simpa [State.atPhase] using hc)))
    · exact .inl rfl
  case scanLatchLo =>
    rcases whenEnabled_next h with ⟨hc, rfl⟩ | ⟨-, rfl⟩
    · simp only [State.atPhase, State.ctrlElapsed, Bool.and_eq_true, beq_iff_eq, decide_eq_true_eq] at hc
      exact .inr (.inl (.latchLo hc.1 hc.2))
    · exact .inl rfl
  case scanLatchHi =>
    rcases whenEnabled_next h with ⟨hc, rfl⟩ | ⟨-, rfl⟩
    · simp only [State.atPhase, State.ctrlElapsed, Bool.and_eq_true, beq_iff_eq, decide_eq_true_eq] at hc
      exact .inr (.inl (.latchHi hc.1 hc.2))
    · exact .inl rfl
  case scanBlankOff =>
    rcases whenEnabled_next h with ⟨hc, rfl⟩ | ⟨-, rfl⟩
    · simp only [State.atPhase, State.ctrlElapsed, Bool.and_eq_true, beq_iff_eq, decide_eq_true_eq] at hc
      exact .inr (.inl (.blankOff hc.1 hc.2))
    · exact .inl rfl
  case scanArm =>
    rcases whenEnabled_next h with ⟨hc, rfl⟩ | ⟨-, rfl⟩
    · exact .inr (.inl (.arm (by simpa [State.atPhase] using hc)))
    · exact .inl rfl
  case scanAdv =>
    rcases whenEnabled_next h with ⟨hc, rfl⟩ | ⟨-, rfl⟩
    · exact .inr (.inl (.adv (by simpa [State.atPhase] using hc)))
    · exact .inl rfl
  case scCollect => cases h; exact .inr (.inl .collect)
  case scRelease j => cases h; exact .inr (.inl (.release j))
  case busDeliverPix =>
    unfold execBusDeliverPix at h
    split at h <;> cases h
    · exact .inr (.inl (.deliverPix _ _ ‹_›))
    · exact .inl rfl
  case busDeliverGrid =>
    unfold execBusDeliverGrid at h
    split at h <;> cases h
    · exact .inr (.inl (.deliverGrid _ _ ‹_›))
    · exact .inl rfl
  case busDropPix =>
    unfold execBusDropPix at h
    split at h <;> cases h
    · exact .inr (.inl (.dropPix _ _ ‹_›))
    · exact .inl rfl
  case busDropGrid =>
    unfold execBusDropGrid at h
    split at h <;> cases h
    · exact .inr (.inl (.dropGrid _ _ ‹_›))
    · exact .inl rfl
  case encEnter =>
    rcases whenEnabled_next h with ⟨hc, rfl⟩ | ⟨-, rfl⟩
    · simp only [Bool.and_eq_true, beq_iff_eq] at hc
      exact .inr (.inr (.inl (.enter rfl hc.1 hc.2)))
    · exact .inl rfl
  case encExit =>
    rcases whenEnabled_next h with ⟨hc, rfl⟩ | ⟨-, rfl⟩
    · exact .inr (.inr (.inl (.exit rfl (by simpa using hc))))
    · exact .inl rfl
  case encEdgeAFall => cases h; exact .inr (.inr (.inl (.edge _ rfl)))
  case encEdgeARise => cases h; exact .inr (.inr (.inl (.edge _ rfl)))
  case encEdgeBFall => cases h; exact .inr (.inr (.inl (.edge _ rfl)))
  case encEdgeBRise => cases h; exact .inr (.inr (.inl (.edge _ rfl)))
  case btnScanCol0 => exact (scanColumn_effect rfl h).imp_right fun e => .inr (.inl e)
  case btnScanCol1 => exact (scanColumn_effect rfl h).imp_right fun e => .inr (.inl e)
  case btnFire =>
    rcases whenEnabled_next h with ⟨hc, rfl⟩ | ⟨-, rfl⟩
    · exact .inr (.inr (.inl (.fire rfl hc)))
    · exact .inl rfl
  case fbSet =>
    obtain ⟨b, h1, h2, e⟩ := withLiveHandle_next h
    split at e
    · obtain ⟨x, y, rfl⟩ := rawSet_next e
      exact .inr (.inr (.inr ⟨rfl, .pixel _ b x y _ h1 h2⟩))
    · cases e; exact .inl rfl
  case fbGet =>
    obtain ⟨b, h1, h2, e⟩ := withLiveHandle_next h
    split at e
    · obtain ⟨v, rfl⟩ := rawGet_next e
      exact .inr (.inr (.inr ⟨rfl, .read v⟩))
    · cases e; exact .inr (.inr (.inr ⟨rfl, .read false⟩))
  case fbClear =>
    obtain ⟨b, h1, h2, e⟩ := withLiveHandle_next h
    cases e
    exact .inr (.inr (.inr ⟨rfl, .clear _ b _ h1 h2⟩))
  case fbSetRaw =>
    obtain ⟨b, h1, h2, e⟩ := withLiveHandle_next h
    obtain ⟨x, y, rfl⟩ := rawSet_next e
    exact .inr (.inr (.inr ⟨rfl, .pixel _ b x y _ h1 h2⟩))
  case fbGetRaw =>
    obtain ⟨b, h1, h2, e⟩ := withLiveHandle_next h
    obtain ⟨v, rfl⟩ := rawGet_next e
    exact .inr (.inr (.inr ⟨rfl, .read v⟩))
  case scAcquire pick =>
    unfold execScAcquire at h
    split at h <;> cases h
    · exact .inr (.inr (.inr ⟨rfl, .acquireNone pick rfl (choose_none.1 ‹_›)⟩))
    · exact .inr (.inr (.inr ⟨rfl, .acquireSome pick _ rfl (choose_some ‹_›)⟩))
  case scPresent n =>
    unfold execScPresent at h
    split at h
    · cases h
    · rename_i hd e
      obtain ⟨j, p⟩ := hd
      cases p <;> cases h
      · exact .inr (.inr (.inr ⟨rfl, .present n j rfl e⟩))
      · exact .inl rfl
  case scDrop n =>
    unfold execScDrop at h
    split at h
    · cases h
    · rename_i hd e
      obtain ⟨j, p⟩ := hd
      cases p <;> cases h
      · exact .inr (.inr (.inr ⟨rfl, .dropLive n j rfl e⟩))
      · exact .inr (.inr (.inr ⟨rfl, .dropPresented n j rfl e⟩))
  case aggUpdate =>
    unfold execAggUpdate at h
    split at h <;> cases h
    exact .inr (.inr (.inr ⟨rfl, .aggReport _ _⟩))
  case aggEnc =>
    unfold execAggEnc at h
    split at h <;> cases h
    exact .inr (.inr (.inr ⟨rfl, .aggLoad _⟩))
  case aggBtn =>
    unfold execAggBtn at h
    split at h <;> cases h
    exact .inr (.inr (.inr ⟨rfl, .aggLoad _⟩))
  all_goals exact (encTransition_effect rfl h).imp_right fun e => .inr (.inl e)

/-- Everything a step can do to the state: nothing, on an empty agenda; or one of the listed effects
in the state that takes the head of the agenda. -/
theorem step_next {s t : State} (h : step s = .next t) :
    (s.agenda = [] ∧ t = s) ∨
    ∃ slot rest i tail, s.agenda = slot :: rest ∧ s.indexTwice = false ∧
      decode slot.bytes = .ok (i, tail) ∧
      (t = s.arrive slot rest ∨ ScanEffect (s.arrive slot rest) i t ∨ InputEffect (s.arrive slot rest) i t ∨
        (i.agent = .host ∧ HostEffect (s.arrive slot rest) i t)) := by
  rcases step_cases s with ⟨h1, e⟩ | ⟨_, _, _, _, e⟩ | ⟨slot, rest, i, tail, h1, h2, h3, e⟩ <;> rw [e] at h
  · cases h; exact .inl ⟨h1, rfl⟩
  · cases h
  · exact .inr ⟨slot, rest, i, tail, h1, h2, h3, exec_next h⟩

end Sys2Proof.Machine
end

