-- ==== Sys2Proof/Laws/Invariants.lean ====
section
/-! SUPPORT. The induction over moves, once: what holds at reset and is kept by every agent step
holds in every reachable state. -/

namespace Sys2Proof.Machine

theorem reachable_of_step {P : State → Prop} (reset : P State.reset)
    (agenda : ∀ s slots, P s → P (s.withAgenda slots))
    (keep : ∀ s t slot, slot.isAgentStep = true → s.agenda = [slot] → P s → step s = .next t → P t)
    {s : State} (h : Reachable s) : P s := by
  induction h with
  | reset => exact reset
  | move _ hm ih =>
    obtain ⟨slot, hs, e⟩ := hm
    exact keep _ _ slot hs rfl (agenda _ _ ih) e

/-- Lists of operations are taken one after the other. -/
theorem runTimed_append (a b : List (Time × Instr)) {s t : State} (h : runTimed a s = .next t) :
    runTimed (a ++ b) s = runTimed b t := by
  induction a generalizing s with
  | nil => cases h; rfl
  | cons p rest ih =>
    obtain ⟨n, i⟩ := p
    simp only [List.cons_append, runTimed] at h ⊢
    cases e : exec i (s.withNow (max s.now n)) with
    | next u => rw [e] at h; exact ih h
    | fault f => cases f
    | refused r => rw [e] at h; cases h

end Sys2Proof.Machine
end

