-- ==== Sys2Proof/Laws/PerInstr.lean ====
section
/-! SUPPORT. Statements about each operation as syntax, one lemma per constructor (LAWS.json). -/

namespace Sys2Proof.Laws.RowDecodes

/-- The operation word alone, every operand zero, is a row of the opcode table: it decodes, to the
operation of the same word and the same agent (30_encoding.md R70, R71; operands log 1). -/
def Statement (i : Instr) : Prop :=
  ∃ j : Instr, decodeTableWord 8 i.opw.toNat = some j ∧ j.opw = i.opw ∧ j.agent = i.agent

theorem scanRefresh : Statement .scanRefresh := ⟨.scanRefresh, show decodeTableWord 8 0x00 = _ by decide, rfl, rfl⟩
theorem scanRelease : Statement .scanRelease := ⟨.scanRelease, show decodeTableWord 8 0x01 = _ by decide, rfl, rfl⟩
theorem scanPixA : Statement .scanPixA := ⟨.scanPixA, show decodeTableWord 8 0x02 = _ by decide, rfl, rfl⟩
theorem scanPixB : Statement .scanPixB := ⟨.scanPixB, show decodeTableWord 8 0x12 = _ by decide, rfl, rfl⟩
theorem scanPixC : Statement .scanPixC := ⟨.scanPixC, show decodeTableWord 8 0x22 = _ by decide, rfl, rfl⟩
theorem scanGrid : Statement .scanGrid := ⟨.scanGrid, show decodeTableWord 8 0x03 = _ by decide, rfl, rfl⟩
theorem scanFlush : Statement .scanFlush := ⟨.scanFlush, show decodeTableWord 8 0x04 = _ by decide, rfl, rfl⟩
theorem scanWaitwin : Statement .scanWaitwin := ⟨.scanWaitwin, show decodeTableWord 8 0x05 = _ by decide, rfl, rfl⟩
theorem scanBlankOn : Statement .scanBlankOn := ⟨.scanBlankOn, show decodeTableWord 8 0x06 = _ by decide, rfl, rfl⟩
theorem scanLatchLo : Statement .scanLatchLo := ⟨.scanLatchLo, show decodeTableWord 8 0x07 = _ by decide, rfl, rfl⟩
theorem scanLatchHi : Statement .scanLatchHi := ⟨.scanLatchHi, show decodeTableWord 8 0x08 = _ by decide, rfl, rfl⟩
theorem scanBlankOff : Statement .scanBlankOff := ⟨.scanBlankOff, show decodeTableWord 8 0x09 = _ by decide, rfl, rfl⟩
theorem scanArm : Statement .scanArm := ⟨.scanArm, show decodeTableWord 8 0x0A = _ by decide, rfl, rfl⟩
theorem scanAdv : Statement .scanAdv := ⟨.scanAdv, show decodeTableWord 8 0x0B = _ by decide, rfl, rfl⟩
theorem scCollect : Statement .scCollect := ⟨.scCollect, show decodeTableWord 8 0x30 = _ by decide, rfl, rfl⟩
theorem scRelease (i : Buf) : Statement (.scRelease i) := ⟨.scRelease 0, show decodeTableWord 8 0x31 = _ by decide, rfl, rfl⟩
theorem busDeliverPix : Statement .busDeliverPix := ⟨.busDeliverPix, show decodeTableWord 8 0x34 = _ by decide, rfl, rfl⟩
theorem busDeliverGrid : Statement .busDeliverGrid := ⟨.busDeliverGrid, show decodeTableWord 8 0x35 = _ by decide, rfl, rfl⟩
theorem busDropPix : Statement .busDropPix := ⟨.busDropPix, show decodeTableWord 8 0x36 = _ by decide, rfl, rfl⟩
theorem busDropGrid : Statement .busDropGrid := ⟨.busDropGrid, show decodeTableWord 8 0x37 = _ by decide, rfl, rfl⟩
theorem encTHold0000 : Statement .encTHold0000 := ⟨.encTHold0000, show decodeTableWord 8 0x40 = _ by decide, rfl, rfl⟩
theorem encTInc0001 : Statement .encTInc0001 := ⟨.encTInc0001, show decodeTableWord 8 0x41 = _ by decide, rfl, rfl⟩
theorem encTDec0010 : Statement .encTDec0010 := ⟨.encTDec0010, show decodeTableWord 8 0x42 = _ by decide, rfl, rfl⟩
theorem encTRej0011 : Statement .encTRej0011 := ⟨.encTRej0011, show decodeTableWord 8 0x43 = _ by decide, rfl, rfl⟩
theorem encTDec0100 : Statement .encTDec0100 := ⟨.encTDec0100, show decodeTableWord 8 0x44 = _ by decide, rfl, rfl⟩
theorem encTHold0101 : Statement .encTHold0101 := ⟨.encTHold0101, show decodeTableWord 8 0x45 = _ by decide, rfl, rfl⟩
theorem encTRej0110 : Statement .encTRej0110 := ⟨.encTRej0110, show decodeTableWord 8 0x46 = _ by decide, rfl, rfl⟩
theorem encTInc0111 : Statement .encTInc0111 := ⟨.encTInc0111, show decodeTableWord 8 0x47 = _ by decide, rfl, rfl⟩
theorem encTInc1000 : Statement .encTInc1000 := ⟨.encTInc1000, show decodeTableWord 8 0x48 = _ by decide, rfl, rfl⟩
theorem encTRej1001 : Statement .encTRej1001 := ⟨.encTRej1001, show decodeTableWord 8 0x49 = _ by decide, rfl, rfl⟩
theorem encTHold1010 : Statement .encTHold1010 := ⟨.encTHold1010, show decodeTableWord 8 0x4A = _ by decide, rfl, rfl⟩
theorem encTDec1011 : Statement .encTDec1011 := ⟨.encTDec1011, show decodeTableWord 8 0x4B = _ by decide, rfl, rfl⟩
theorem encTRej1100 : Statement .encTRej1100 := ⟨.encTRej1100, show decodeTableWord 8 0x4C = _ by decide, rfl, rfl⟩
theorem encTDec1101 : Statement .encTDec1101 := ⟨.encTDec1101, show decodeTableWord 8 0x4D = _ by decide, rfl, rfl⟩
theorem encTInc1110 : Statement .encTInc1110 := ⟨.encTInc1110, show decodeTableWord 8 0x4E = _ by decide, rfl, rfl⟩
theorem encTHold1111 : Statement .encTHold1111 := ⟨.encTHold1111, show decodeTableWord 8 0x4F = _ by decide, rfl, rfl⟩
theorem encEnter : Statement .encEnter := ⟨.encEnter, show decodeTableWord 8 0x50 = _ by decide, rfl, rfl⟩
theorem encExit : Statement .encExit := ⟨.encExit, show decodeTableWord 8 0x60 = _ by decide, rfl, rfl⟩
theorem encEdgeAFall : Statement .encEdgeAFall := ⟨.encEdgeAFall, show decodeTableWord 8 0x70 = _ by decide, rfl, rfl⟩
theorem encEdgeARise : Statement .encEdgeARise := ⟨.encEdgeARise, show decodeTableWord 8 0x71 = _ by decide, rfl, rfl⟩
theorem encEdgeBFall : Statement .encEdgeBFall := ⟨.encEdgeBFall, show decodeTableWord 8 0x72 = _ by decide, rfl, rfl⟩
theorem encEdgeBRise : Statement .encEdgeBRise := ⟨.encEdgeBRise, show decodeTableWord 8 0x73 = _ by decide, rfl, rfl⟩
theorem btnScanCol0 (r0 : Level) (r1 : Level) : Statement (.btnScanCol0 r0 r1) := ⟨.btnScanCol0 false false, show decodeTableWord 8 0x80 = _ by decide, rfl, rfl⟩
theorem btnScanCol1 (r0 : Level) (r1 : Level) : Statement (.btnScanCol1 r0 r1) := ⟨.btnScanCol1 false false, show decodeTableWord 8 0x81 = _ by decide, rfl, rfl⟩
theorem btnFire : Statement .btnFire := ⟨.btnFire, show decodeTableWord 8 0x90 = _ by decide, rfl, rfl⟩
theorem fbSet (h : Nat) (x : Int) (y : Int) (c : Bool) : Statement (.fbSet h x y c) := ⟨.fbSet 0 0 0 false, show decodeTableWord 8 0xC0 = _ by decide, rfl, rfl⟩
theorem fbGet (h : Nat) (x : Int) (y : Int) : Statement (.fbGet h x y) := ⟨.fbGet 0 0 0, show decodeTableWord 8 0xC1 = _ by decide, rfl, rfl⟩
theorem fbClear (h : Nat) (c : Bool) : Statement (.fbClear h c) := ⟨.fbClear 0 false, show decodeTableWord 8 0xC2 = _ by decide, rfl, rfl⟩
theorem fbSetRaw (h : Nat) (x : Int) (y : Int) (c : Bool) : Statement (.fbSetRaw h x y c) := ⟨.fbSetRaw 0 0 0 false, show decodeTableWord 8 0xC3 = _ by decide, rfl, rfl⟩
theorem fbGetRaw (h : Nat) (x : Int) (y : Int) : Statement (.fbGetRaw h x y) := ⟨.fbGetRaw 0 0 0, show decodeTableWord 8 0xC4 = _ by decide, rfl, rfl⟩
theorem scAcquire (pick : Buf) : Statement (.scAcquire pick) := ⟨.scAcquire 0, show decodeTableWord 8 0xC8 = _ by decide, rfl, rfl⟩
theorem scPresent (h : Nat) : Statement (.scPresent h) := ⟨.scPresent 0, show decodeTableWord 8 0xC9 = _ by decide, rfl, rfl⟩
theorem scDrop (h : Nat) : Statement (.scDrop h) := ⟨.scDrop 0, show decodeTableWord 8 0xCA = _ by decide, rfl, rfl⟩
theorem aggUpdate : Statement .aggUpdate := ⟨.aggUpdate, show decodeTableWord 8 0xD0 = _ by decide, rfl, rfl⟩
theorem aggEnc : Statement .aggEnc := ⟨.aggEnc, show decodeTableWord 8 0xD1 = _ by decide, rfl, rfl⟩
theorem aggBtn : Statement .aggBtn := ⟨.aggBtn, show decodeTableWord 8 0xD2 = _ by decide, rfl, rfl⟩

end Sys2Proof.Laws.RowDecodes
end

