-- ==== Sys2Proof/Tests/Slice0.lean ====
section
/-! SUPPORT. Small tests, each on one step or one word. Expected values come from spec/: the words
of 30_encoding.md R71, the table of R66, the vectors V1 to V106 of 95_test_vectors.md. The witnesses
at the end show, for each statement with hypotheses, a state and operands that meet them. -/

namespace Sys2Proof.Tests

open Sys2Proof.Machine

/-! ### Well-formedness: an ill-formed operation for each check -/

theorem test_wf_refuses_x :
    [Instr.fbSetRaw 0 (-1) 0 true, .fbSetRaw 0 132 0 true, .fbGetRaw 0 (-1) 0, .fbGetRaw 0 132 0].all
      (fun i => !i.wf) = true := by decide

theorem test_wf_refuses_y :
    [Instr.fbSetRaw 0 0 (-1) true, .fbSetRaw 0 0 64 true, .fbGetRaw 0 0 (-1), .fbGetRaw 0 0 64].all
      (fun i => !i.wf) = true := by decide

theorem test_wf_accepts_bounds :
    [Instr.fbSetRaw (2 ^ 40) 131 63 true, .fbGetRaw 0 0 0, .fbSet 0 (-1) 64 true].all (fun i => i.wf) = true := by
  decide

/-! ### Decoding: the word of every row of R71 -/

/-- Each word, alone, decodes to its operation. -/
def wordsDecode (rows : List (Nat × Instr)) : Bool :=
  rows.all fun p => decodeTableWord 8 p.1 == some p.2

theorem test_decode_scanner :
    wordsDecode [(0b00000000, .scanRefresh), (0b00000001, .scanRelease), (0b00000010, .scanPixA),
      (0b00010010, .scanPixB), (0b00100010, .scanPixC), (0b00000011, .scanGrid), (0b00000100, .scanFlush),
      (0b00000101, .scanWaitwin), (0b00000110, .scanBlankOn), (0b00000111, .scanLatchLo),
      (0b00001000, .scanLatchHi), (0b00001001, .scanBlankOff), (0b00001010, .scanArm),
      (0b00001011, .scanAdv)] = true := by decide

theorem test_decode_swap_bodies_and_buses :
    wordsDecode [(0b00110000, .scCollect), (0b00110001, .scRelease 0), (0b00110100, .busDeliverPix),
      (0b00110101, .busDeliverGrid), (0b00110110, .busDropPix), (0b00110111, .busDropGrid)] = true := by decide

theorem test_decode_transitions :
    wordsDecode [(0b01000000, .encTHold0000), (0b01000001, .encTInc0001), (0b01000010, .encTDec0010),
      (0b01000011, .encTRej0011), (0b01000100, .encTDec0100), (0b01000101, .encTHold0101),
      (0b01000110, .encTRej0110), (0b01000111, .encTInc0111), (0b01001000, .encTInc1000),
      (0b01001001, .encTRej1001), (0b01001010, .encTHold1010), (0b01001011, .encTDec1011),
      (0b01001100, .encTRej1100), (0b01001101, .encTDec1101), (0b01001110, .encTInc1110),
      (0b01001111, .encTHold1111)] = true := by decide

theorem test_decode_handlers :
    wordsDecode [(0b01010000, .encEnter), (0b01100000, .encExit), (0b01110000, .encEdgeAFall),
      (0b01110001, .encEdgeARise), (0b01110010, .encEdgeBFall), (0b01110011, .encEdgeBRise),
      (0b10000000, .btnScanCol0 false false), (0b10000001, .btnScanCol1 false false),
      (0b10010000, .btnFire)] = true := by decide

theorem test_decode_host :
    wordsDecode [(0b11000000, .fbSet 0 0 0 false), (0b11000001, .fbGet 0 0 0), (0b11000010, .fbClear 0 false),
      (0b11000011, .fbSetRaw 0 0 0 false), (0b11000100, .fbGetRaw 0 0 0), (0b11001000, .scAcquire 0),
      (0b11001001, .scPresent 0), (0b11001010, .scDrop 0), (0b11010000, .aggUpdate), (0b11010001, .aggEnc),
      (0b11010010, .aggBtn)] = true := by decide

/-- Exactly the 56 words of R71 are operations (R73). -/
theorem test_decode_rejects_the_rest :
    ((List.range 256).filter fun w => (decodeTableWord 8 w).isSome).length = 56 := by decide

theorem test_decode_rejects_unassigned : decode [0x0C#8] = .error (.unassignedOpw 0x0C#8) := by decide

/- The layout of log 1: 300 = 44 + 2 * 128; 131 is number 262 = 6 + 2 * 128; -1 is number 1. -/
theorem test_decode_operands :
    decode [0xC3#8, 0xAC#8, 0x02#8, 0x86#8, 0x02#8, 0x01#8, 1#8, 9#8]
      = .ok (.fbSetRaw 300 131 (-1) true, [9#8]) := by decide +kernel

/- Handle numbers and coordinates have no bound: 2^35 is a 1 in the sixth group. -/
theorem test_decode_wide_operands :
    decode [0xC1#8, 0x80#8, 0x80#8, 0x80#8, 0x80#8, 0x80#8, 0x01#8, 0#8, 0x81#8, 0x80#8, 0x80#8, 0x80#8, 0x80#8, 0x01#8]
      = .ok (.fbGet (2 ^ 35) 0 (-2 ^ 34 - 1), []) := by decide +kernel

theorem test_decode_rejects_operands :
    decode [0x80#8, 1#8, 2#8] = .error (.badFlag 2#8) ∧ decode [0xC8#8, 3#8] = .error (.badBuffer 3#8) ∧
      decode [0xC9#8, 0x85#8] = .error .truncated ∧
      decode [0xC9#8, 0x85#8, 0#8] = .error (.badNumber 0x85#8) := by decide

/-! ### One step -/

/-- What `f` reads in the next state, if there is one. -/
def after {α : Type} (i : Instr) (s : State) (f : State → α) : Option α :=
  match exec i s with
  | .next t => some (f t)
  | .fault _ => none
  | .refused _ => none

/-- Why the operation is refused, if it is. -/
def refusal? (i : Instr) (s : State) : Option Refusal :=
  match exec i s with
  | .next _ => none
  | .fault _ => none
  | .refused r => some r

/-- The scanner at a phase, with buffer 0 in use and the clock at `now`. -/
def scanAt (p : ScanPhase) (g : GridLine) (now : Time) : State :=
  { State.reset with
    scan := { State.reset.scan with ph := p, g := g, cur := some 0 }
    swap := { State.reset.swap with free := #v[false, true, true] }
    now := now }

def line1 : GridLine := ⟨1, by decide⟩
def line2 : GridLine := ⟨2, by decide⟩
def line43 : GridLine := ⟨43, by decide⟩

/-- The host has acquired buffer 0, and byte `off` of it holds `v`. -/
def held (off : Nat) (v : Byte) : State :=
  { State.reset with
    swap := { State.reset.swap with free := #v[false, true, true], acq := #v[true, false, false] }
    handles := [some { idx := 0, presented := false }]
    fs := [(off, v)] }

/-- The encoder handler has settled, with stored state `prev` and count `n`. -/
def settled (prev : BitVec 2) (n : Count) : State :=
  { State.reset with
    enc := { encPrev := prev, encIf := 0b1000#4, encCount := n, encPh := .settling, encTrig := 0b1000#4, tEnc := 0 }
    now := Config.encSettle }

/- The coordinate map, V1. -/
theorem test_address_map :
    [(0, 0, 0, 0), (1, 0, 0, 2), (2, 0, 0, 4), (3, 0, 0, 5), (4, 0, 0, 3), (5, 0, 0, 1), (6, 0, 48, 0),
      (0, 1, 0, 6), (0, 7, 5, 2), (0, 8, 6, 0), (7, 10, 55, 6), (64, 32, 504, 3), (5, 63, 47, 3),
      (127, 0, 1008, 2), (126, 63, 1055, 2), (127, 63, 1055, 4), (131, 63, 1055, 3)].all
      (fun p : Fin 132 × Fin 64 × Nat × Nat =>
        (pixelOffset p.1 p.2.1).val == p.2.2.1 && (pixelBit p.1 p.2.1).val == p.2.2.2) = true := by decide

theorem test_set_lit : after (.fbSet 0 5 0 true) (held 0 0x01#8) (·.readByte 0 0) = some 0x03#8 := by decide
theorem test_set_unlit : after (.fbSet 0 3 0 false) (held 0 0xFF#8) (·.readByte 0 0) = some 0xDF#8 := by decide
theorem test_get_outside : after (.fbGet 0 128 63) (held 1055 0xFF#8) (·.results) = some [.pixel false] := by decide
theorem test_get_inside : after (.fbGet 0 127 63) (held 1055 0x10#8) (·.results) = some [.pixel true] := by decide
theorem test_get_raw : after (.fbGetRaw 0 128 63) (held 1055 0x40#8) (·.results) = some [.pixel true] := by decide
theorem test_set_raw : after (.fbSetRaw 0 128 0 true) (held 1008 0#8) (·.readByte 0 1008) = some 0x10#8 := by decide
theorem test_set_raw_refused : refusal? (.fbSetRaw 0 132 0 true) (held 0 0#8) = some .rawOutOfRange := by decide
theorem test_get_raw_refused : refusal? (.fbGetRaw 0 0 64) (held 0 0#8) = some .rawOutOfRange := by decide
theorem test_clear : after (.fbClear 0 true) (held 0 0#8) (·.readByte 0 1055) = some 0xFF#8 := by
  simp [after, exec, execFbClear, withLiveHandle, held, State.handle?, BufSet.has, readByte_fillBuffer, fillByte]

/- The byte transform, V30. -/
theorem test_transform :
    [(0x01#8, 0xFF#8, 0x7F#8), (0x80#8, 0xFF#8, 0xFE#8), (0x00#8, 0xFF#8, 0xFF#8), (0xFF#8, 0xFF#8, 0x00#8),
      (0xFF#8, 0x00#8, 0xFF#8), (0xA5#8, 0x0F#8, 0x5F#8), (0x3C#8, 0x55#8, 0xD7#8), (0x3C#8, 0xAA#8, 0xEB#8),
      (0x12#8, 0xF0#8, 0xF7#8), (0x96#8, 0x3F#8, 0x97#8)].all
      (fun p => byteTransform p.1 p.2.1 == p.2.2) = true := by decide

/- Grid words, V32 and R66. -/
theorem test_grid_line1 :
    after .scanGrid (scanAt .grid line1 0) (·.bus.gridq)
      = some [0x3F#8, 0xFF#8, 0xFF#8, 0xFF#8, 0xFF#8, 0xFF#8] := by decide
theorem test_grid_line43 :
    after .scanGrid (scanAt .grid line43 0) (·.bus.gridq)
      = some [0xFF#8, 0xFF#8, 0xFF#8, 0xFF#8, 0xFF#8, 0xCF#8] := by decide
theorem test_grid_line16 :
    List.ofFn (gridByte ⟨16, by decide⟩) = [0xFF#8, 0xFE#8, 0x7F#8, 0xFF#8, 0xFF#8, 0xFF#8] := by decide

theorem test_pix_count :
    after .scanPixA (scanAt .pix line1 0) (·.bus.pixq.length) = some 48 ∧
      after .scanPixC (scanAt .pix line43 0) (·.bus.pixq.length) = some 16 := by decide
theorem test_pix_b_phase : after .scanPixB (scanAt .pix line2 0) (·.scan.ph) = some .grid := by decide
theorem test_pix_wrong_class : after .scanPixB (scanAt .pix line1 0) (·.scan.ph) = some .pix := by decide
theorem test_adv_wraps : after .scanAdv (scanAt .adv line43 0) (·.scan.g.val) = some 1 := by decide
theorem test_waitwin_holds : after .scanWaitwin (scanAt .waitwin line1 4999) (·.scan.ph) = some .waitwin := by decide +kernel
theorem test_waitwin_passes : after .scanWaitwin (scanAt .waitwin line1 5000) (·.scan.ph) = some .blankOn := by decide +kernel
theorem test_blank_on :
    after .scanBlankOn (scanAt .blankOn line1 5000) (·.trace) = some [⟨5000, .pins .blank false false⟩] := by decide
theorem test_latch_lo_holds : after .scanLatchLo (scanAt .latchLo line1 99) (·.trace) = some [] := by decide +kernel
theorem test_latch_hi : after .scanLatchHi (scanAt .latchHi line1 100) (·.scan.latch) = some #v[true, true] := by decide +kernel
theorem test_blank_off : after .scanBlankOff (scanAt .blankOff line1 100) (·.scan.blank) = some #v[true, true] := by decide +kernel
theorem test_arm : after .scanArm (scanAt .arm line1 5300) (·.scan.tArm) = some 5300 := by decide
theorem test_idle : after .scanRelease { State.reset with scan := { State.reset.scan with ph := .release } }
    (·.scan.ph) = some .refresh := by decide
theorem test_refresh_adopts :
    after .scanRefresh { State.reset with
      swap := { State.reset.swap with pending := some 1, free := #v[true, false, true] } }
      (fun t => (t.swap.pending, t.scan.cur)) = some (none, some 1) := by decide

/- The swap chain, V21 to V26. -/
theorem test_acquire :
    after (.scAcquire 1) State.reset (·.swap) = some
      { free := #v[true, false, true], pending := none, acq := #v[false, true, false] } := by decide
theorem test_acquire_none :
    after (.scAcquire 1) { State.reset with swap := { State.reset.swap with free := #v[false, false, false] } }
      (·.results) = some [.acquired none] := by decide
theorem test_present_supersedes :
    after (.scPresent 0) { State.reset with
      swap := { free := #v[false, false, false], pending := some 0, acq := #v[false, false, true] },
      handles := [some { idx := 2, presented := false }] } (·.swap) = some
      { free := #v[true, false, false], pending := some 2, acq := #v[false, false, false] } := by decide
theorem test_drop_gives_back : after (.scDrop 0) (held 0 0#8) (·.swap) = some State.reset.swap := by decide
theorem test_collect :
    after .scCollect { State.reset with swap := { State.reset.swap with pending := some 1 } }
      (fun t => (t.swap.pending, t.results)) = some (none, [.collected (some 1)]) := by decide
theorem test_release :
    after (.scRelease 1) { State.reset with swap := { State.reset.swap with free := #v[false, false, true] } }
      (·.swap.free) = some #v[false, true, true] := by decide

/- The buses, R114 and R115. -/
theorem test_deliver :
    after .busDeliverPix { State.reset with bus := { pixq := [1#8, 2#8], gridq := [3#8] } }
      (fun t => (t.bus.pixq, t.trace)) = some ([2#8], [⟨0, .pix 1#8⟩]) := by decide
theorem test_deliver_grid :
    after .busDeliverGrid { State.reset with bus := { pixq := [1#8], gridq := [3#8, 4#8] } }
      (fun t => (t.bus.gridq, t.trace)) = some ([4#8], [⟨0, .grid 3#8⟩]) := by decide
theorem test_drop :
    after .busDropPix { State.reset with bus := { pixq := [1#8, 2#8], gridq := [3#8] } }
      (fun t => (t.bus.pixq, t.trace)) = some ([2#8], []) := by decide
theorem test_drop_grid :
    after .busDropGrid { State.reset with bus := { pixq := [1#8], gridq := [3#8, 4#8] } }
      (fun t => (t.bus.gridq, t.trace)) = some ([4#8], []) := by decide

/- The quadrature table, R67: rows by the stored state, columns by the sampled one. -/
theorem test_transition_table :
    [0b00#2, 0b01#2, 0b10#2, 0b11#2].map
      (fun p => [0b00#2, 0b01#2, 0b10#2, 0b11#2].map (transition p))
      = [[0, 1, -1, 0], [-1, 0, 0, 1], [1, 0, 0, -1], [0, -1, 1, 0]] := by decide

/- V63. -/
theorem test_count_wraps_up :
    after .encTInc0001 (settled 0b00#2 2147483647#32) (·.enc.encCount.toInt) = some (-2147483648) := by
  simp [after, exec, execEncTInc0001, encTransition, settled]; decide
theorem test_count_wraps_down :
    after .encTDec0010 (settled 0b00#2 0x80000000#32) (·.enc.encCount.toInt) = some 2147483647 := by
  simp [after, exec, execEncTDec0010, encTransition, settled]; decide
/- V66: an impossible transition stores the sampled state. -/
theorem test_rejected_stores :
    after .encTRej0011 (settled 0b00#2 10#32) (fun t => (t.enc.encPrev, t.enc.encCount)) = some (0b11#2, 10#32) := by
  simp [after, exec, execEncTRej0011, encTransition, settled]; decide
theorem test_edge :
    after .encEdgeBRise State.reset (·.enc.encIf) = some 0b1000#4 ∧
      after .encEdgeAFall State.reset (·.enc.encIf) = some 0b0001#4 := by decide
theorem test_enter :
    after .encEnter { State.reset with enc := { State.reset.enc with encIf := 0b1000#4 }, now := 7 }
      (fun t => (t.enc.encTrig, t.enc.tEnc, t.enc.encIf)) = some (0b1000#4, 7, 0b1000#4) := by decide
/- V67: a flag of another kind survives the return. -/
theorem test_exit_keeps_other_flag :
    after .encExit { State.reset with
      enc := { State.reset.enc with encIf := 0b1100#4, encTrig := 0b1000#4, encPh := .decoded } }
      (·.enc.encIf) = some 0b0100#4 := by decide

/- The buttons, V81 to V83. -/
theorem test_fire_holds : after .btnFire { State.reset with now := 4999999 } (·.btn.btnIf) = some false := by decide
theorem test_fire : after .btnFire { State.reset with now := 5000000 } (·.btn.btnIf) = some true := by decide
theorem test_scan_col0 :
    after (.btnScanCol0 true false) { State.reset with btn := { State.reset.btn with btnIf := true }, now := 5000123 }
      (fun t => (t.btn.btnCol, t.btn.btnRaw, t.btn.colSel, t.btn.btnIf, t.btn.btnDeadline))
      = some (1, #v[true, false, false, false], #v[false, true], false, 10000123) := by decide +kernel
theorem test_scan_col1 :
    after (.btnScanCol1 false true) { State.reset with
      btn := { State.reset.btn with
        btnCol := 1, btnRaw := #v[true, false, false, false], colSel := #v[false, true], btnIf := true } } (fun t => (t.btn.btnRaw, t.btn.colSel))
      = some (#v[true, false, false, true], #v[true, false]) := by decide

/- The aggregator, V100, V101, V105. -/
theorem test_detents :
    [(0, 0), (1, 0), (3, 0), (4, 1), (5, 1), (7, 1), (8, 2), (-1, 0), (-3, 0), (-4, -1), (-5, -1), (-7, -1),
      (-8, -2), (2147483647, 536870911), (-2147483647, -536870911), (-2147483648, -536870912)].all
      (fun p : Int × Int => detents (BitVec.ofInt 32 p.1) == p.2) = true := by decide
theorem test_wdelta :
    [(0, 0, 0), (5, 7, 2), (7, 5, -2), (100, -2147483640, 2147483556), (2147483647, -2147483648, 1),
      (-2147483648, 2147483647, -1), (0, -2147483648, -2147483648), (-2147483648, 0, -2147483648),
      (536870911, -536870912, -1073741823), (-536870912, 536870911, 1073741823)].all
      (fun p : Int × Int × Int => wdelta p.1 p.2.1 == p.2.2) = true := by decide
theorem test_agg_order :
    refusal? .aggBtn State.reset = some .aggOutOfOrder ∧
      refusal? .aggUpdate { State.reset with agg := { State.reset.agg with aggPh := .btn 2 } }
        = some .aggOutOfOrder := by decide
theorem test_agg_enc :
    after .aggEnc { State.reset with enc := { State.reset.enc with encCount := 9#32 } }
      (fun t => (t.agg.aggTCount, t.agg.aggPh)) = some (9#32, .btn 0) := by decide
theorem test_agg_btn :
    after .aggBtn { State.reset with
      agg := { State.reset.agg with aggPh := .btn 2 },
      btn := { State.reset.btn with btnRaw := #v[false, false, true, false] } }
      (fun t => (t.agg.aggTLvl, t.agg.aggPh)) = some (#v[false, false, true, false], .btn 3) := by decide
/- V102. -/
theorem test_agg_update :
    after .aggUpdate { State.reset with
      agg := { State.reset.agg with aggPh := .update, aggTCount := 9#32, aggPrevDetent := 1#32 } }
      (fun t => (t.agg.aggPrevDetent, t.results.map fun r => match r with
        | .input x => (x.encoder.count, x.encoder.delta)
        | _ => (0#32, 0#32))) = some (2#32, [(2#32, 1#32)]) := by decide

/-- The step takes the word that was placed, from reset (log 2). -/
theorem test_step_runs_word :
    (match step (State.reset.withFetchWord 8 0b01110011) with
      | .next t => t.enc.encIf == 0b1000#4 && t.agenda.isEmpty
      | .fault _ => false
      | .refused _ => false) = true := by decide

/-! ### Witnesses: a state and operands that meet the hypotheses of each statement

Named after the statement in Certificates/Slice0/Obligations.lean; where a statement has several
clauses, one part for each, at boundary values. -/

/-- The operation answers a next state. -/
def goesOn (i : Instr) (s : State) : Bool :=
  match exec i s with
  | .next _ => true
  | .fault _ => false
  | .refused _ => false

theorem exists_of_goesOn {i : Instr} {s : State} (h : goesOn i s = true) : ∃ t, exec i s = .next t := by
  unfold goesOn at h
  split at h
  · exact ⟨_, ‹_›⟩
  · cases h
  · cases h

/-- The step answers a next state. -/
def stepsOn (s : State) : Bool :=
  match step s with
  | .next _ => true
  | .fault _ => false
  | .refused _ => false

theorem exists_of_stepsOn {s : State} (h : stepsOn s = true) : ∃ t, step s = .next t := by
  unfold stepsOn at h
  split at h
  · exact ⟨_, ‹_›⟩
  · cases h
  · cases h

/-- A slot with the record of an operation. -/
def slotOfInstr (i : Instr) (n : Time) : Slot := { time := n, bytes := encode i }

theorem witness_DecodedBytesAreTheRecord :
    decode [0xC2#8, 0xFF#8, 0x7F#8, 1#8, 0xEE#8] = .ok (.fbClear (2 ^ 14 - 1) true, [0xEE#8]) := by
  decide

theorem witness_StepRunsDecodedOperation : ∃ (s : State) (slot : Slot) (rest : List Slot) (i : Instr) (tail : List Byte),
    s.agenda = slot :: rest ∧ s.indexTwice = false ∧ decode slot.bytes = .ok (i, tail) :=
  ⟨State.reset.withAgenda [⟨9, [0x00#8, 0x55#8]⟩], ⟨9, [0x00#8, 0x55#8]⟩, [], .scanRefresh, [0x55#8], rfl, by decide, rfl⟩

theorem witness_StepWithoutOperation :
    (∃ s : State, s.agenda = []) ∧
    (∃ (s : State) (slot : Slot) (rest : List Slot), s.agenda = slot :: rest ∧ s.indexTwice = true) ∧
    (∃ (s : State) (slot : Slot) (rest : List Slot) (e : DecodeError), s.agenda = slot :: rest ∧
      s.indexTwice = false ∧ decode slot.bytes = .error e) :=
  ⟨⟨State.reset, rfl⟩,
    ⟨{ State.reset with swap := { State.reset.swap with pending := some 2 }, agenda := [⟨0, []⟩] }, ⟨0, []⟩, [], rfl, by decide⟩,
    ⟨State.reset.withAgenda [⟨0, [0xFF#8]⟩], ⟨0, [0xFF#8]⟩, [], _, rfl, by decide, rfl⟩⟩

theorem witness_OnlyHostMisuseIsRefused :
    refusal? (.scDrop 0) State.reset = some .handleNotHeld ∧
    refusal? (.fbClear 0 true) { held 0 0#8 with swap := State.reset.swap } = some .handleNotWritable ∧
    refusal? (.fbGetRaw 0 132 63) (held 0 0#8) = some .rawOutOfRange ∧
    refusal? .aggUpdate State.reset = some .aggOutOfOrder := by decide

theorem witness_NotEnabledHolds_scan :
    (scanAt .adv line1 0).scan.ph ≠ .refresh ∧ State.reset.scan.ph ≠ .release ∧
    ((scanAt .pix line43 0).scan.g.val % 2 = 1 ∧ (scanAt .pix line43 0).scan.g.val = 43) ∧
    (scanAt .pix line1 0).scan.g.val % 2 ≠ 0 ∧ (scanAt .pix line2 0).scan.g.val ≠ 43 ∧
    State.reset.scan.cur = none ∧ State.reset.scan.ph ≠ .grid ∧ State.reset.scan.ph ≠ .flush ∧
    ¬ ((scanAt .waitwin line1 4999).scan.tArm + 5000 ≤ (scanAt .waitwin line1 4999).now) ∧
    State.reset.scan.ph ≠ .blankOn ∧
    ¬ ((scanAt .latchLo line1 99).scan.tCtl + 100 ≤ (scanAt .latchLo line1 99).now) ∧
    State.reset.scan.ph ≠ .latchHi ∧ State.reset.scan.ph ≠ .blankOff ∧ State.reset.scan.ph ≠ .arm ∧
    State.reset.scan.ph ≠ .adv := by decide +kernel

theorem witness_NotEnabledHolds_rest :
    State.reset.bus.pixq = [] ∧ State.reset.bus.gridq = [] ∧ State.reset.enc.encIf = 0 ∧
    State.reset.enc.encPh ≠ .decoded ∧ State.reset.enc.encPh ≠ .settling ∧
    ¬ (State.reset.btn.btnDeadline ≤ { State.reset with now := 4999999 }.now) ∧
    State.reset.btn.btnIf = false ∧ State.reset.btn.btnCol ≠ 1 := by decide

theorem witness_RefreshAdoptsPending :
    (∃ s : State, s.scan.ph = .refresh ∧ s.swap.pending = some 2) ∧
    (∃ s : State, s.scan.ph = .refresh ∧ s.swap.pending = none) :=
  ⟨⟨{ State.reset with swap := { State.reset.swap with pending := some 2 } }, rfl, rfl⟩, ⟨State.reset, rfl, rfl⟩⟩

theorem witness_ReleaseFreesPreviousBuffer :
    (∃ s : State, s.scan.ph = .release ∧ s.scan.rel = some 1 ∧ s.scan.cur = some 0) ∧
    (∃ s : State, s.scan.ph = .release ∧ s.scan.rel = none ∧ s.scan.cur = none) :=
  ⟨⟨{ State.reset with scan := { State.reset.scan with ph := .release, rel := some 1, cur := some 0 } }, rfl, rfl, rfl⟩,
    ⟨{ State.reset with scan := { State.reset.scan with ph := .release } }, rfl, rfl, rfl⟩⟩

theorem witness_PixABEmitColumnBytes :
    (∃ (s : State) (b : Buf), s.scan.ph = .pix ∧ s.scan.cur = some b ∧ s.scan.g.val ≠ 43 ∧ s.scan.g.val % 2 = 1 ∧
      ∃ (i : Fin 48) (off : Offset), i.val = 47 ∧ off.val = 48 * ((s.scan.g.val - 1) / 2) + i.val) ∧
    (∃ (s : State) (b : Buf), s.scan.ph = .pix ∧ s.scan.cur = some b ∧ s.scan.g.val ≠ 43 ∧ s.scan.g.val % 2 ≠ 1 ∧
      ∃ (i : Fin 48) (off : Offset), i.val = 0 ∧ off.val = 48 * ((s.scan.g.val - 1) / 2) + i.val) :=
  ⟨⟨scanAt .pix line1 0, 0, rfl, rfl, by decide, by decide, 47, 47, by decide⟩,
    ⟨scanAt .pix ⟨42, by decide⟩ 0, 0, rfl, rfl, by decide, by decide, 0, 960, by decide⟩⟩

theorem witness_PixCEmitsLastColumnBytes : ∃ (s : State) (b : Buf), s.scan.ph = .pix ∧ s.scan.cur = some b ∧
    s.scan.g.val = 43 ∧ ∃ (i : Fin 16) (off : Offset), i.val = 15 ∧ off.val = 1008 + i.val :=
  ⟨scanAt .pix line43 0, 0, rfl, rfl, rfl, 15, 1023, by decide⟩

theorem witness_GridWordClearsTwoBits : ∃ s : State, s.scan.ph = .grid ∧ s.scan.g.val = 43 :=
  ⟨scanAt .grid line43 0, rfl, rfl⟩

theorem witness_FlushWaitsForBothQueues :
    (∃ s : State, s.scan.ph = .flush ∧ s.bus.pixq = [] ∧ s.bus.gridq = []) ∧
    (∃ s : State, ¬ (s.scan.ph = .flush ∧ s.bus.pixq = [] ∧ s.bus.gridq = []) ∧ s.scan.ph = .flush) :=
  ⟨⟨scanAt .flush line1 0, rfl, rfl, rfl⟩, ⟨{ scanAt .flush line1 0 with bus := ⟨[], [1#8]⟩ }, by decide, rfl⟩⟩

theorem witness_ControlLinesFollowSequence :
    (∃ s : State, s.scan.ph = .blankOn) ∧
    (∃ s : State, s.scan.ph = .latchLo ∧ s.scan.tCtl + 100 ≤ s.now) ∧
    (∃ s : State, s.scan.ph = .latchHi ∧ s.scan.tCtl + 100 ≤ s.now) ∧
    (∃ s : State, s.scan.ph = .blankOff ∧ s.scan.tCtl + 100 ≤ s.now) :=
  ⟨⟨scanAt .blankOn line1 0, rfl⟩, ⟨scanAt .latchLo line1 100, rfl, by decide +kernel⟩,
    ⟨scanAt .latchHi line1 100, rfl, by decide +kernel⟩, ⟨scanAt .blankOff line1 100, rfl, by decide +kernel⟩⟩

theorem witness_WindowIsWaitedOutAndArmed :
    (∃ s : State, s.scan.ph = .waitwin ∧ s.scan.tArm + 5000 ≤ s.now) ∧
    (∃ s : State, ¬ (s.scan.ph = .waitwin ∧ s.scan.tArm + 5000 ≤ s.now) ∧ s.scan.ph = .waitwin) ∧
    (∃ s : State, s.scan.ph = .arm) ∧ (∃ s : State, s.scan.ph ≠ .arm) :=
  ⟨⟨scanAt .waitwin line1 5000, rfl, by decide +kernel⟩, ⟨scanAt .waitwin line1 4999, by decide +kernel, rfl⟩,
    ⟨scanAt .arm line1 0, rfl⟩, ⟨State.reset, by decide⟩⟩

theorem witness_AdvanceCyclesGridLine :
    (∃ s : State, s.scan.ph = .adv ∧ s.scan.g.val = 43) ∧ (∃ s : State, s.scan.ph = .adv ∧ s.scan.g.val = 1) ∧
    (∃ s : State, s.scan.ph ≠ .adv) :=
  ⟨⟨scanAt .adv line43 0, rfl, rfl⟩, ⟨scanAt .adv line1 0, rfl, rfl⟩, ⟨State.reset, by decide⟩⟩

/-- A line whose refresh adopts a buffer, and one whose refresh finds none; instants between two
nanoseconds. -/
theorem witness_LinePassProducesItsTrace :
    (∃ (s : State) (b : Buf) (t0 t1 t2 t3 t4 t5 : Time), s.scan.ph = .refresh ∧ s.swap.pending = some b ∧
      s.scan.cur ≠ some b ∧ s.bus.pixq = [] ∧ s.bus.gridq = [] ∧ s.now ≤ t0 ∧ t0 ≤ t1 ∧
      s.scan.tArm + 5000 ≤ t1 ∧ t1 + 100 ≤ t2 ∧ t2 + 100 ≤ t3 ∧ t3 + 100 ≤ t4 ∧ t4 ≤ t5) ∧
    (∃ (s : State) (b : Buf) (t0 t1 t2 t3 t4 t5 : Time), s.scan.ph = .refresh ∧ s.swap.pending = none ∧
      s.scan.cur = some b ∧ s.bus.pixq = [] ∧ s.bus.gridq = [] ∧ s.now ≤ t0 ∧ t0 ≤ t1 ∧
      s.scan.tArm + 5000 ≤ t1 ∧ t1 + 100 ≤ t2 ∧ t2 + 100 ≤ t3 ∧ t3 + 100 ≤ t4 ∧ t4 ≤ t5) :=
  ⟨⟨{ scanAt .refresh line1 0 with swap := { free := #v[false, false, true], pending := some 1, acq := #v[false, false, false] } },
      1, 1 / 2, 5000 + 1 / 2, 5100 + 1 / 2, 5200 + 1 / 2, 5300 + 1 / 2, 5301, rfl, rfl, by decide, rfl, rfl,
      by decide +kernel⟩,
    ⟨scanAt .refresh line43 10, 0, 10, 5000, 5100, 5200, 5300, 5300, rfl, rfl, rfl, rfl, rfl, by decide +kernel⟩⟩

/-- With bytes queued at `SCAN.GRID`, and at `SCAN.FLUSH` with none. -/
theorem witness_ScannerAlwaysHasANextStep :
    (∃ s : State, s.ScanHolds ∧ s.scan.ph = .grid ∧ s.bus.pixq = [1#8] ∧
      (s.scan.ph = .flush → s.bus.pixq = [] ∧ s.bus.gridq = [])) ∧
    (∃ s : State, s.ScanHolds ∧ s.scan.ph = .flush ∧ s.bus.pixq = [] ∧ s.bus.gridq = []) :=
  ⟨⟨{ scanAt .grid line43 0 with bus := ⟨[1#8], []⟩ }, ⟨fun _ => rfl, fun _ _ => by decide⟩, rfl, rfl,
      fun h => by cases h⟩,
    ⟨scanAt .flush line43 0, ⟨fun _ => rfl, fun _ _ => by decide⟩, rfl, rfl, rfl⟩⟩

theorem witness_BusesDeliverOrLoseOldestByte :
    (∃ (s : State) (b : Byte) (rest : List Byte), s.bus.pixq = b :: rest) ∧
    (∃ (s : State) (b : Byte) (rest : List Byte), s.bus.gridq = b :: rest) :=
  ⟨⟨{ State.reset with bus := ⟨[1#8], []⟩ }, 1#8, [], rfl⟩, ⟨{ State.reset with bus := ⟨[], [2#8, 3#8]⟩ }, 2#8, [3#8], rfl⟩⟩

theorem witness_DeliveriesKeepOrder : ∃ (s : State) (t : Time), t ≤ s.now ∧ s.bus.pixq = [1#8, 2#8] :=
  ⟨{ State.reset with bus := ⟨[1#8, 2#8], []⟩, now := 4 }, 4, by decide, rfl⟩

theorem witness_AcquireTakesFreeIndex :
    (∃ s : State, ∀ i, BufSet.has s.swap.free i = false) ∧ (∃ s : State, ∃ i, BufSet.has s.swap.free i = true) :=
  ⟨⟨{ State.reset with swap := { State.reset.swap with free := #v[false, false, false] } }, by decide⟩,
    ⟨State.reset, 2, by decide⟩⟩

theorem witness_PresentPublishesBuffer :
    (∃ (s : State) (h : Nat) (i : Buf), s.handle? h = some { idx := i, presented := true }) ∧
    (∃ (s : State) (h : Nat) (i : Buf), s.handle? h = some { idx := i, presented := false }) :=
  ⟨⟨{ State.reset with handles := [none, some { idx := 2, presented := true }] }, 1, 2, rfl⟩, ⟨held 0 0#8, 0, 0, rfl⟩⟩

theorem witness_DropEndsHandle : ∀ p : Bool, ∃ (s : State) (h : Nat) (i : Buf),
    s.handle? h = some { idx := i, presented := p } :=
  fun p => ⟨{ State.reset with handles := [some { idx := 2, presented := p }] }, 0, 2, rfl⟩

theorem witness_FreeCountBoundsAcquires :
    (∃ (s : State) (picks : List Buf), picks.length = BufSet.size s.swap.free ∧ picks = [0, 0, 2]) ∧
    (∃ (s : State) (picks : List Buf), picks.length = BufSet.size s.swap.free ∧ picks = []) :=
  ⟨⟨State.reset, _, by decide, rfl⟩,
    ⟨{ State.reset with swap := { State.reset.swap with free := #v[false, false, false] } }, _, by decide, rfl⟩⟩

theorem witness_HostMisuseIsRefusedByName :
    (∃ (s : State) (h : Nat), s.handle? h = none) ∧
    (∃ (s : State) (h : Nat) (hd : Handle), s.handle? h = some hd ∧ hd.presented = true) ∧
    (∃ (s : State) (h : Nat) (hd : Handle), s.handle? h = some hd ∧ BufSet.has s.swap.acq hd.idx = false) ∧
    (∃ s : State, s.agg.aggPh ≠ .enc) ∧ (∃ s : State, ∀ k, s.agg.aggPh ≠ .btn k) ∧
    (∃ s : State, s.agg.aggPh ≠ .update) :=
  ⟨⟨State.reset, 0, rfl⟩, ⟨{ held 0 0#8 with handles := [some ⟨0, true⟩] }, 0, ⟨0, true⟩, rfl, rfl⟩,
    ⟨{ held 0 0#8 with swap := State.reset.swap }, 0, ⟨0, false⟩, rfl, by decide⟩,
    ⟨{ State.reset with agg := { State.reset.agg with aggPh := .btn 3 } }, by decide⟩,
    ⟨State.reset, by decide⟩, ⟨State.reset, by decide⟩⟩

/-- Buffer 0 is acquired, buffer 1 is being scanned, buffer 2 is free. -/
def owned : State :=
  { held 0 0#8 with
    scan := { State.reset.scan with ph := .pix, cur := some 1 }
    swap := { free := #v[false, false, true], pending := none, acq := #v[true, false, false] } }

theorem owned_ownership : owned.Ownership := by
  refine ⟨by unfold State.Partition; decide, ⟨?_, ?_⟩, by decide, by decide⟩
  · intro i
    constructor
    · intro h
      have : i = 0 := by revert h; revert i; decide
      exact ⟨0, by rw [this]; rfl⟩
    · rintro ⟨h, e⟩
      match h, e with
      | 0, e => cases e; decide
      | n + 1, e => simp [State.handle?, owned, held] at e
  · intro h h' i e e'
    match h, h', e, e' with
    | 0, 0, _, _ => rfl
    | n + 1, _, e, _ => simp [State.handle?, owned, held] at e
    | _, n + 1, _, e' => simp [State.handle?, owned, held] at e'

theorem witness_StepKeepsOwnership : ∃ (s t : State) (slot : Slot) (rest : List Slot),
    s.agenda = slot :: rest ∧ slot.isAgentStep = true ∧ s.Ownership ∧ step s = .next t := by
  obtain ⟨t, ht⟩ := exists_of_stepsOn (s := owned.withAgenda [slotOfInstr (.scPresent 0) 0]) (by decide)
  exact ⟨owned.withAgenda [slotOfInstr (.scPresent 0) 0], t, slotOfInstr (.scPresent 0) 0, [], rfl, by decide,
    owned_ownership, ht⟩

theorem witness_ReachableBuffersHaveOnePlace : ∃ s : State, Reachable s ∧ s ≠ State.reset := by
  obtain ⟨t, ht⟩ := exists_of_stepsOn (s := State.reset.withAgenda [slotOfInstr .encEdgeBRise 3]) (by decide)
  refine ⟨t, .move .reset ⟨slotOfInstr .encEdgeBRise 3, by decide, ht⟩, ?_⟩
  have h : t.now = 3 := by cases ht; rfl
  intro e
  rw [e] at h
  exact absurd h (by decide)

theorem witness_OnlyAcquiredBuffersChange : ∃ (i : Instr) (s t : State), exec i s = .next t ∧ s.Ownership ∧
    (∃ b, BufSet.has s.swap.acq b = false) ∧ ∃ b, s.scan.cur = some b := by
  obtain ⟨t, ht⟩ := exists_of_goesOn (i := .fbSet 0 0 0 true) (s := owned) (by decide)
  exact ⟨_, _, t, ht, owned_ownership, ⟨2, by decide⟩, 1, rfl⟩

theorem witness_EnterSnapshotsFlags : ∃ s : State, s.enc.encPh = .idle ∧ s.enc.encIf ≠ 0#4 :=
  ⟨{ State.reset with enc := { State.reset.enc with encIf := 0b0110#4 } }, rfl, by decide⟩

theorem witness_ExitClearsTriggeringFlags : ∃ s : State, s.enc.encPh = .decoded ∧ s.enc.encTrig = 0b0010#4 :=
  ⟨{ State.reset with enc := { State.reset.enc with encPh := .decoded, encTrig := 0b0010#4 } }, rfl, rfl⟩

/-- For `ForwardTransitionsAddOne`, `ReverseTransitionsSubtractOne` and
`UnchangedAndImpossibleKeepCount`: every stored state, settled. -/
theorem witness_Transitions : ∀ prev : BitVec 2, ∃ s : State, s.enc.encPh = .settling ∧
    s.enc.tEnc + Config.encSettle ≤ s.now ∧ s.enc.encPrev = prev :=
  fun prev => ⟨settled prev 0, rfl, by simp [settled], rfl⟩

theorem witness_DetentIsFourCounts : ∃ (s : State) (t1 t2 t3 t4 : Time), s.enc.encPh = .idle ∧
    s.enc.encPrev = 0b00#2 ∧ s.now ≤ t1 ∧ t1 + Config.encSettle ≤ t2 ∧ t2 + Config.encSettle ≤ t3 ∧
    t3 + Config.encSettle ≤ t4 :=
  ⟨State.reset, 0, Config.encSettle, 2 * Config.encSettle, 3 * Config.encSettle, rfl, rfl, le_refl _,
    by linarith, by linarith, by linarith⟩

theorem witness_TimerFiresAtDeadline : ∃ s : State, s.btn.btnDeadline ≤ s.now ∧ s.btn.btnIf = false :=
  ⟨{ State.reset with now := 5000000 }, by decide, rfl⟩

theorem witness_ButtonScanServesColumn :
    (∃ s : State, s.btn.btnIf = true ∧ s.btn.btnCol = 0) ∧ (∃ s : State, s.btn.btnIf = true ∧ s.btn.btnCol = 1) :=
  ⟨⟨{ State.reset with btn := { State.reset.btn with btnIf := true } }, rfl, rfl⟩,
    ⟨{ State.reset with btn := { State.reset.btn with btnIf := true, btnCol := 1 } }, rfl, rfl⟩⟩

theorem witness_StepKeepsOneColumnSelected : ∃ s t : State, s.OneColumnSelected ∧ step s = .next t := by
  obtain ⟨t, ht⟩ := exists_of_stepsOn (s := { State.reset with
    btn := { State.reset.btn with btnIf := true }, agenda := [slotOfInstr (.btnScanCol0 true false) 0] }) (by decide)
  exact ⟨_, t, by unfold State.OneColumnSelected; decide, ht⟩

/-- For every statement about a live handle: `SetChecksBoundsThenDelegates`,
`GetChecksBoundsThenDelegates`, `SetRawChangesOneBit`, `GetRawReadsOneBit`, `ClearFillsWholeBuffer`,
`SetThenGetRoundTrip`. -/
theorem witness_LiveHandle : ∃ (s : State) (h : Nat) (b : Buf), s.Live h b :=
  ⟨held 0 0#8, 0, 0, rfl, by decide⟩

/-- The clauses of `SetChecksBoundsThenDelegates` and `GetChecksBoundsThenDelegates` at the corners. -/
theorem witness_LogicalBounds :
    [(0, 0), (127, 63), (127, 0), (0, 63)].all (fun p : Int × Int => inLogicalArea p.1 p.2) = true ∧
    [(-1, 0), (128, 0), (0, -1), (0, 64)].all (fun p : Int × Int => !inLogicalArea p.1 p.2) = true := by decide

/-- The clauses of `SetRawChangesOneBit` and `GetRawReadsOneBit` at the corners. -/
theorem witness_RawBounds :
    [(0, 0), (131, 63)].all (fun p : Int × Int => (rawCoord? p.1 p.2).isSome) = true ∧
    [(-1, 0), (132, 0), (0, -1), (0, 64)].all (fun p : Int × Int => (rawCoord? p.1 p.2).isNone) = true := by decide

theorem witness_StepKeepsFrameStoreForm : ∃ s t : State, Memory.wf s.fs = true ∧ step s = .next t := by
  obtain ⟨t, ht⟩ := exists_of_stepsOn
    (s := (held 3167 0#8).withAgenda [slotOfInstr (.fbSetRaw 0 131 63 true) 0]) (by decide)
  exact ⟨_, t, by decide, ht⟩

theorem witness_AggregatorLoadsOneValue :
    (∃ s : State, s.agg.aggPh = .enc) ∧ (∀ k, ∃ s : State, s.agg.aggPh = .btn k) :=
  ⟨⟨State.reset, rfl⟩, fun k => ⟨{ State.reset with agg := { State.reset.agg with aggPh := .btn k } }, rfl⟩⟩

theorem witness_UpdateReportsDetentsAndEdges : ∃ s : State, s.agg.aggPh = .update ∧ s.agg.aggTCount = 0x80000000#32 :=
  ⟨{ State.reset with agg := { State.reset.agg with aggPh := .update, aggTCount := 0x80000000#32 } }, rfl, rfl⟩

/-- An operation of each agent that answers a next state. -/
theorem witness_AgentsWriteOnlyTheirOwnState : ∀ a : Agent, ∃ (i : Instr) (s t : State),
    i.agent = a ∧ exec i s = .next t := by
  intro a
  cases a
  · exact ⟨.scanRefresh, State.reset, _, rfl, rfl⟩
  · exact ⟨.encExit, State.reset, _, rfl, rfl⟩
  · exact ⟨.btnScanCol0 true true, State.reset, _, rfl, rfl⟩
  · exact ⟨.scAcquire 0, State.reset, _, rfl, rfl⟩
  · exact ⟨.encEdgeAFall, State.reset, _, rfl, rfl⟩

/-- The two handlers pending together, as in V120. -/
def bothPending : State :=
  { State.reset with
    enc := { State.reset.enc with encIf := 0b0001#4 }
    btn := { State.reset.btn with btnIf := true } }

theorem witness_HandlersCommute :
    (∃ (i j : Instr) (s t u : State), (i.agent = .enc ∧ j.agent = .btn) ∧ exec i s = .next t ∧ exec j t = .next u) ∧
    (∃ (i j : Instr) (s t u : State), (i.agent = .btn ∧ j.agent = .enc) ∧ exec i s = .next t ∧ exec j t = .next u) :=
  ⟨⟨.encEnter, .btnScanCol0 true false, bothPending, _, _, ⟨rfl, rfl⟩, rfl, rfl⟩,
    ⟨.btnScanCol0 true false, .encEnter, bothPending, _, _, ⟨rfl, rfl⟩, rfl, rfl⟩⟩

/-- For `TraceGrowsInTimeOrder` and `StepKeepsQueuesFlushedBeforeLatch`: a delivery. -/
theorem witness_StepKeepsQueuesFlushedBeforeLatch : ∃ s t : State, s.QueuesFollowPhase ∧ step s = .next t := by
  obtain ⟨t, ht⟩ := exists_of_stepsOn (s := { scanAt .flush line1 7 with
    bus := ⟨[1#8], [2#8]⟩, agenda := [slotOfInstr .busDeliverPix 9] }) (by decide)
  exact ⟨_, t, ⟨fun _ h => absurd rfl h, fun h => absurd rfl h⟩, ht⟩

/-- Blanked at 5000 ns, and `SCAN.LATCH_LO` next at 5100. -/
def blanked : State :=
  { scanAt .latchLo line1 5000 with
    scan := { (scanAt .latchLo line1 0).scan with tCtl := 5000 }
    trace := [⟨5000, .pins .blank false false⟩]
    agenda := [slotOfInstr .scanLatchLo 5100] }

theorem witness_StepKeepsControlSequence : ∃ s t : State, s.ControlSafe ∧ s.trace ≠ [] ∧ step s = .next t := by
  obtain ⟨t, ht⟩ := exists_of_stepsOn (s := blanked) (by decide +kernel)
  refine ⟨blanked, t, ⟨⟨by decide +kernel, ?_⟩, rfl, by unfold State.StampsHavePassed; decide⟩, by decide, ht⟩
  rintro e he
  cases he
  exact ⟨rfl, by decide⟩

end Sys2Proof.Tests
end

section
/-! PROOFS. The byte transform bit by bit (30_encoding.md R62). -/

namespace Sys2Proof.Machine

/-- Bit `i` of the transform: the mask, the reversal and the inversion are each taken at one bit. -/
@[simp] theorem byteTransform_getElem (s m : Byte) (i : Fin 8) :
    (byteTransform s m)[i.val] = !(s[7 - i.val] && m[7 - i.val]) := by
  unfold byteTransform
  rw [BitVec.getElem_not, rev8_getElem, BitVec.getElem_and]

/-- Settles O12: take the transform's bit at the mirrored position `7-j`; mirroring twice gives `j`
back (R62). -/
theorem transformReversesAndInverts : Obligations.TransformReversesAndInverts := by
  intro s m j
  have mirrored : 7 - (7 - j.val) = j.val := by omega
  have atMirror := byteTransform_getElem s m ⟨7 - j.val, by omega⟩
  simpa only [mirrored] using atMirror

end Sys2Proof.Machine
end

section
/-! PROOFS. The pixel writers of the frame store, through a live handle (40_frame_store_ops.md R80, R82). -/

namespace Sys2Proof.Machine

/-- Through a live handle `FB.SET` is the raw writer under the bounds check (R80). -/
theorem exec_fbSet_live {s : State} {h : Nat} {b : Buf} (live : s.Live h b) (x y : Int) (c : Bool) :
    exec (.fbSet h x y c) s = if inLogicalArea x y then rawSet b x y c s else .next s := by
  obtain ⟨held, acquired⟩ := live
  calc exec (.fbSet h x y c) s
    _ = withLiveHandle h s (fun b => if inLogicalArea x y then rawSet b x y c s else .next s) := rfl
    _ = _ := withLiveHandle_live _ held acquired

/-- Through a live handle `FB.SET_RAW` is the raw writer with no check before it (R82). -/
theorem exec_fbSetRaw_live {s : State} {h : Nat} {b : Buf} (live : s.Live h b) (x y : Int) (c : Bool) :
    exec (.fbSetRaw h x y c) s = rawSet b x y c s := by
  obtain ⟨held, acquired⟩ := live
  calc exec (.fbSetRaw h x y c) s
    _ = withLiveHandle h s (fun b => rawSet b x y c s) := rfl
    _ = _ := withLiveHandle_live _ held acquired

/-- At a raw coordinate the raw writer answers the state with that pixel written (R82). -/
theorem rawSet_of_some {x y : Int} {p : Fin 132 × Fin 64} (inRaw : rawCoord? x y = some p)
    (b : Buf) (c : Bool) (s : State) : rawSet b x y c s = .next (s.writePixel b p.1 p.2 c) := by
  unfold rawSet
  rw [inRaw]

/-- Settles O43, by the two sides of the bounds check; inside it the raw writer is never refused,
since the logical area lies in the raw range (R80). -/
theorem setChecksBoundsThenDelegates : Obligations.SetChecksBoundsThenDelegates := by
  intro s h b x y c live
  rw [exec_fbSet_live live, exec_fbSetRaw_live live, ← inLogicalArea_iff]
  refine ⟨fun inside => ?_, fun outside => if_neg outside⟩
  obtain ⟨p, inRaw⟩ := rawCoord?_of_logical inside
  rw [if_pos inside]
  exact ⟨rfl, _, rawSet_of_some inRaw b c s⟩

end Sys2Proof.Machine
end

section
/-! PROOFS. Presenting a frame: the published buffer and the marked handle (41_swap_chain.md R91). -/

namespace Sys2Proof.Machine

/-- A second present through the same handle changes nothing (R91). -/
theorem exec_scPresent_of_presented {s : State} {h : Nat} {i : Buf}
    (held : s.handle? h = some { idx := i, presented := true }) : exec (.scPresent h) s = .next s := by
  calc exec (.scPresent h) s
    _ = execScPresent h s := rfl
    _ = .next s := by rw [execScPresent, held]; rfl

/-- The first present through a handle publishes its buffer and marks the handle (R91). -/
theorem exec_scPresent_of_unpresented {s : State} {h : Nat} {i : Buf}
    (held : s.handle? h = some { idx := i, presented := false }) :
    exec (.scPresent h) s =
      .next ((s.withSwap (s.swap.publish i)).markPresented h { idx := i, presented := false }) := by
  calc exec (.scPresent h) s
    _ = execScPresent h s := rfl
    _ = _ := by rw [execScPresent, held]; rfl

/-- The swap chain and the handles are apart: writing the one keeps the other. -/
@[simp] theorem handle?_withSwap (s : State) (w : SwapChain) (h : Nat) :
    (s.withSwap w).handle? h = s.handle? h := rfl

/-- Settles O23, by the handle's mark: unmarked, each collection is read off `publish`, and the
handle exists, so the mark lands on it alone (R91). -/
theorem presentPublishesBuffer : Obligations.PresentPublishesBuffer := by
  intro s h i
  refine ⟨exec_scPresent_of_presented, fun held =>
    ⟨_, exec_scPresent_of_unpresented held, rfl, fun k => ?free, fun k => ?acq, fun h' => ?handles, rfl⟩⟩
  case free =>
    rw [State.markPresented_swap, State.withSwap_swap, publish_free_has, Bool.or_comm]
    simp only [beq_eq_decide]
  case acq =>
    rw [State.markPresented_swap, State.withSwap_swap, publish_acq, has_remove, Bool.and_comm, bne_comm]
  case handles =>
    have inRange : h < (s.withSwap (s.swap.publish i)).handles.length := handle?_lt held
    rw [handle?_markPresented _ _ _ inRange, handle?_withSwap]
    simp only [eq_comm (a := h)]

end Sys2Proof.Machine
end

section
/-! PROOFS. The scanner's barrier, window and line advance: each passes when its enabling condition
holds and else holds the scanner (42_display_scanner.md R106, R107, R112, R113). -/

namespace Sys2Proof.Machine

theorem atPhase_iff (s : State) (p : ScanPhase) : s.atPhase p = true ↔ s.scan.ph = p := by
  unfold State.atPhase
  exact beq_iff_eq

/-- An operation that means `whenEnabled` passes exactly under the condition its test decides, and
else leaves the state as it is (the header of 42_display_scanner.md). -/
theorem exec_passes_or_holds {i : Instr} {s t : State} {test : Bool} {enabled : Prop}
    (meaning : exec i s = whenEnabled test s t) (decides : test = true ↔ enabled) :
    (enabled → exec i s = .next t) ∧ (¬ enabled → exec i s = .next s) := by
  rw [meaning]
  refine ⟨fun holds => ?_, fun fails => ?_⟩
  · rw [decides.mpr holds, whenEnabled_true]
  · rw [Bool.eq_false_iff.mpr (mt decides.mp fails), whenEnabled_false]

/-- The test of `SCAN.FLUSH` (R106). -/
theorem flushTest_iff (s : State) :
    (s.atPhase .flush && s.bus.pixq.isEmpty && s.bus.gridq.isEmpty) = true ↔
      s.scan.ph = .flush ∧ s.bus.pixq = [] ∧ s.bus.gridq = [] := by
  rw [Bool.and_eq_true, Bool.and_eq_true, atPhase_iff, List.isEmpty_iff, List.isEmpty_iff, and_assoc]

/-- The test of `SCAN.WAITWIN`, with the window's 5000 ns (R107). -/
theorem waitwinTest_iff (s : State) :
    (s.atPhase .waitwin && decide (s.scan.tArm + Config.tWindow ≤ s.now)) = true ↔
      s.scan.ph = .waitwin ∧ s.scan.tArm + 5000 ≤ s.now := by
  rw [Bool.and_eq_true, atPhase_iff, decide_eq_true_iff, Config.tWindow]

/-- Settles O14: the two sides of the barrier's test (R106). -/
theorem flushWaitsForBothQueues : Obligations.FlushWaitsForBothQueues := fun s =>
  exec_passes_or_holds (t := s.toPhase .waitwin) rfl (flushTest_iff s)

/-- Settles O16: the two sides of the window's test, then those of the phase alone (R107, R112). -/
theorem windowIsWaitedOutAndArmed : Obligations.WindowIsWaitedOutAndArmed := by
  intro s
  obtain ⟨passes, waits⟩ :=
    exec_passes_or_holds (i := .scanWaitwin) (t := s.toPhase .blankOn) rfl (waitwinTest_iff s)
  obtain ⟨arms, holds⟩ :=
    exec_passes_or_holds (i := .scanArm)
      (t := (s.withScan { s.scan with tArm := s.now }).toPhase .adv) rfl (atPhase_iff s .arm)
  exact ⟨passes, waits, arms, holds⟩

/-- Settles O17: the two sides of the phase's test; the line reached is `nextLine` (R113). -/
theorem advanceCyclesGridLine : Obligations.AdvanceCyclesGridLine := by
  intro s
  obtain ⟨advances, holds⟩ :=
    exec_passes_or_holds (i := .scanAdv)
      (t := (s.withScan { s.scan with g := nextLine s.scan.g }).toPhase .refresh) rfl (atPhase_iff s .adv)
  exact ⟨fun atAdv => ⟨_, advances atAdv, nextLine_val s.scan.g, rfl⟩, holds⟩

end Sys2Proof.Machine
end

section
/-! PROOFS. The record of an operation: written and read back, read and written back, and a word of
each family (30_encoding.md R70 to R74; operand layout log 1). -/

namespace Sys2Proof

/-- A record is read by its operation word, with its operand bytes and the tail left to read. -/
theorem decode_record (i : Instr) (rest : List Byte) :
    decode (encode i ++ rest) = decodeOp i.opw (i.operandBytes ++ rest) := rfl

/-- Settles O1, by the operation: without operands the word alone decides; with operands each one
that was written is read back in turn, the tail behind it. -/
theorem decodeReadsBackEncoding : Obligations.DecodeReadsBackEncoding := by
  intro i rest
  rw [decode_record]
  cases i
  case scRelease | scAcquire => simp [Instr.opw, Instr.operandBytes, decodeOp]
  case btnScanCol0 | btnScanCol1 => simp [Instr.opw, Instr.operandBytes, decodeOp]
  case fbSet | fbGet | fbClear | fbSetRaw | fbGetRaw =>
    simp [Instr.opw, Instr.operandBytes, decodeOp]
  case scPresent | scDrop => simp [Instr.opw, Instr.operandBytes, decodeOp]
  all_goals rfl

/-! Operands that were read in a row are the bytes they would be written in. -/

theorem flags_eq_ok {β : Type} {f : Bool → Bool → β} {bs tail : List Byte} {i : β}
    (e : (withOperand (takeFlag bs) fun r0 t1 => withOperand (takeFlag t1) fun r1 t2 =>
      (.ok (f r0 r1, t2) : Decoded β)) = .ok (i, tail)) :
    ∃ r0 r1, i = f r0 r1 ∧ bs = putFlag r0 ++ putFlag r1 ++ tail := by
  obtain ⟨r0, t1, e0, e⟩ := withOperand_eq_ok e
  obtain ⟨r1, t2, e1, e⟩ := withOperand_eq_ok e
  cases e
  exact ⟨r0, r1, rfl, by rw [takeFlag_eq_ok e0, takeFlag_eq_ok e1, List.append_assoc]⟩

theorem handle_eq_ok {β : Type} {f : Nat → β} {bs tail : List Byte} {i : β}
    (e : (withOperand (takeHandle bs) fun h t1 => (.ok (f h, t1) : Decoded β)) = .ok (i, tail)) :
    ∃ h, i = f h ∧ bs = putHandle h ++ tail := by
  obtain ⟨h, t1, e0, e⟩ := withOperand_eq_ok e
  cases e
  exact ⟨h, rfl, takeHandle_eq_ok e0⟩

theorem buf_eq_ok {β : Type} {f : Buf → β} {bs tail : List Byte} {i : β}
    (e : (withOperand (takeBuf bs) fun j t1 => (.ok (f j, t1) : Decoded β)) = .ok (i, tail)) :
    ∃ j, i = f j ∧ bs = putBuf j ++ tail := by
  obtain ⟨j, t1, e0, e⟩ := withOperand_eq_ok e
  cases e
  exact ⟨j, rfl, takeBuf_eq_ok e0⟩

theorem handleFlag_eq_ok {β : Type} {f : Nat → Bool → β} {bs tail : List Byte} {i : β}
    (e : (withOperand (takeHandle bs) fun h t1 => withOperand (takeFlag t1) fun c t2 =>
      (.ok (f h c, t2) : Decoded β)) = .ok (i, tail)) :
    ∃ h c, i = f h c ∧ bs = putHandle h ++ putFlag c ++ tail := by
  obtain ⟨h, t1, e0, e⟩ := withOperand_eq_ok e
  obtain ⟨c, t2, e1, e⟩ := withOperand_eq_ok e
  cases e
  exact ⟨h, c, rfl, by rw [takeHandle_eq_ok e0, takeFlag_eq_ok e1, List.append_assoc]⟩

theorem handleCoords_eq_ok {β : Type} {f : Nat → Int → Int → β} {bs tail : List Byte} {i : β}
    (e : (withOperand (takeHandle bs) fun h t1 => withOperand (takeCoord t1) fun x t2 =>
      withOperand (takeCoord t2) fun y t3 => (.ok (f h x y, t3) : Decoded β)) = .ok (i, tail)) :
    ∃ h x y, i = f h x y ∧ bs = putHandle h ++ putCoord x ++ putCoord y ++ tail := by
  obtain ⟨h, t1, e0, e⟩ := withOperand_eq_ok e
  obtain ⟨x, t2, e1, e⟩ := withOperand_eq_ok e
  obtain ⟨y, t3, e2, e⟩ := withOperand_eq_ok e
  cases e
  refine ⟨h, x, y, rfl, ?_⟩
  rw [takeHandle_eq_ok e0, takeCoord_eq_ok e1, takeCoord_eq_ok e2]
  simp only [List.append_assoc]

theorem handleCoordsFlag_eq_ok {β : Type} {f : Nat → Int → Int → Bool → β} {bs tail : List Byte} {i : β}
    (e : (withOperand (takeHandle bs) fun h t1 => withOperand (takeCoord t1) fun x t2 =>
      withOperand (takeCoord t2) fun y t3 => withOperand (takeFlag t3) fun c t4 =>
      (.ok (f h x y c, t4) : Decoded β)) = .ok (i, tail)) :
    ∃ h x y c, i = f h x y c ∧ bs = putHandle h ++ putCoord x ++ putCoord y ++ putFlag c ++ tail := by
  obtain ⟨h, t1, e0, e⟩ := withOperand_eq_ok e
  obtain ⟨x, t2, e1, e⟩ := withOperand_eq_ok e
  obtain ⟨y, t3, e2, e⟩ := withOperand_eq_ok e
  obtain ⟨c, t4, e3, e⟩ := withOperand_eq_ok e
  cases e
  refine ⟨h, x, y, c, rfl, ?_⟩
  rw [takeHandle_eq_ok e0, takeCoord_eq_ok e1, takeCoord_eq_ok e2, takeFlag_eq_ok e3]
  simp only [List.append_assoc]

/-- What `decodeOp` reads is the operation word and the operand bytes of its operation. -/
theorem decodeOp_eq_ok {opw : Byte} {bs tail : List Byte} {i : Instr}
    (e : decodeOp opw bs = .ok (i, tail)) : opw :: bs = encode i ++ tail := by
  unfold decodeOp at e
  split at e
  case h_57 => cases e
  all_goals
    rename_i word
    rw [ofNat_of_toNat word]
  case h_16 | h_51 =>
    obtain ⟨j, rfl, rfl⟩ := buf_eq_ok e
    rfl
  case h_43 | h_44 =>
    obtain ⟨r0, r1, rfl, rfl⟩ := flags_eq_ok e
    rfl
  case h_46 | h_49 =>
    obtain ⟨h, x, y, c, rfl, rfl⟩ := handleCoordsFlag_eq_ok e
    rfl
  case h_47 | h_50 =>
    obtain ⟨h, x, y, rfl, rfl⟩ := handleCoords_eq_ok e
    rfl
  case h_48 =>
    obtain ⟨h, c, rfl, rfl⟩ := handleFlag_eq_ok e
    rfl
  case h_52 | h_53 =>
    obtain ⟨h, rfl, rfl⟩ := handle_eq_ok e
    rfl
  all_goals
    cases e
    rfl

/-- Settles O2: some byte stands first, and `decodeOp_eq_ok` is the statement for it. -/
theorem decodedBytesAreTheRecord : Obligations.DecodedBytesAreTheRecord := by
  intro i bytes rest e
  cases bytes with
  | nil => cases e
  | cons opw operands => exact decodeOp_eq_ok e

/-- Settles O3: ten closed words, each decoded by evaluation (R71). -/
theorem wordsOfEachFamilyDecode : Obligations.WordsOfEachFamilyDecode := by
  unfold Obligations.WordsOfEachFamilyDecode
  decide

end Sys2Proof
end

section
/-! PROOFS. The ownership of the buffers: every agent step keeps each index in one place and `acq` at
the live handles, and no byte changes outside the acquired buffers (41_swap_chain.md R96, 20_memory.md
R51, 10_state.md R20). -/

namespace Sys2Proof.Machine

/-! ### Each index in one place -/

/-- Of five flags of which exactly one is set, a set flag is the only one. -/
theorem others_clear_of_sum_eq_one {a b c d e : Bool}
    (one : a.toNat + b.toNat + c.toNat + d.toNat + e.toNat = 1) :
    (a = true → b = false ∧ c = false ∧ d = false ∧ e = false) ∧
    (b = true → a = false ∧ c = false ∧ d = false ∧ e = false) ∧
    (e = true → a = false ∧ b = false ∧ c = false ∧ d = false) := by
  revert a b c d e
  decide

/-- The places of an index are read off the swap chain, `cur` and `rel` alone. -/
theorem partition_congr {s t : State} (part : s.Partition) (swap : t.swap = s.swap)
    (cur : t.scan.cur = s.scan.cur) (rel : t.scan.rel = s.scan.rel) : t.Partition := by
  intro i
  rw [← part i]
  simp only [State.placesOf, swap, cur, rel]

/-- The scanner moves the pending index to `cur`, `cur` to `rel` and `rel` to `free`; no operation of
it but the two bodies makes or loses a place (R100, R101). -/
theorem ScanEffect.partition {s t : State} {i : Instr} (eff : ScanEffect s i t) (noBody : i.isBody = false)
    (part : s.Partition) (holds : s.ScanHolds) : t.Partition := by
  cases eff
  case collect | release => cases noBody
  case refreshSome j atRefresh pending =>
    have relNone : s.scan.rel = none := holds.1 (by simp [atRefresh])
    intro k
    rw [← part k]
    simp [State.placesOf, pending, relNone]
  case releaseSome j p atRelease rel next =>
    intro k
    rcases eq_or_ne j k with rfl | ne
    · have set : (s.scan.rel == some j) = true := beq_iff_eq.2 rel
      obtain ⟨free, acq, pending, cur⟩ := (others_clear_of_sum_eq_one (part j)).2.2 set
      simp [State.placesOf, acq, pending, cur]
    · rw [← part k]
      simp [State.placesOf, rel, beq_false_of_ne ne]
  all_goals exact partition_congr part rfl rfl rfl

/-- The host moves a free index to `acq`, an acquired one to `pending` or back to `free`, and a
superseded one from `pending` to `free` (R90 to R92). -/
theorem HostEffect.partition {s t : State} {i : Instr} (eff : HostEffect s i t)
    (part : s.Partition) (agree : s.HandlesAgree) : t.Partition := by
  cases eff
  case acquireSome pick j _ set =>
    intro k
    rcases eq_or_ne j k with rfl | ne
    · obtain ⟨acq, pending, cur, rel⟩ := (others_clear_of_sum_eq_one (part j)).1 set
      simp [State.placesOf, pending, cur, rel]
    · rw [← part k]
      simp [State.placesOf, bne, beq_false_of_ne ne]
  case present h j _ held =>
    intro k
    rcases eq_or_ne j k with rfl | ne
    · have set : BufSet.has s.swap.acq j = true := (agree.1 j).2 ⟨h, held⟩
      obtain ⟨free, pending, cur, rel⟩ := (others_clear_of_sum_eq_one (part j)).2.1 set
      simp [State.placesOf, publish_free_has, free, pending, cur, rel]
    · have freeAlone := (others_clear_of_sum_eq_one (part k)).1
      rw [← part k]
      cases free : BufSet.has s.swap.free k with
      | false => simp [State.placesOf, publish_free_has, bne, beq_false_of_ne ne, free, Nat.add_comm]
      | true =>
        obtain ⟨-, notPending, -⟩ := freeAlone free
        simp [State.placesOf, publish_free_has, bne, beq_false_of_ne ne, free, notPending]
  case dropLive h j _ held =>
    intro k
    rcases eq_or_ne j k with rfl | ne
    · have set : BufSet.has s.swap.acq j = true := (agree.1 j).2 ⟨h, held⟩
      obtain ⟨free, pending, cur, rel⟩ := (others_clear_of_sum_eq_one (part j)).2.1 set
      simp [State.placesOf, pending, cur, rel]
    · rw [← part k]
      simp [State.placesOf, bne, beq_false_of_ne ne]
  all_goals exact partition_congr part rfl rfl rfl

/-! ### The live handles are the acquired indices -/

theorem handlesAgree_congr {s t : State} (agree : s.HandlesAgree) (acq : t.swap.acq = s.swap.acq)
    (handles : t.handles = s.handles) : t.HandlesAgree := by
  have same : ∀ h, t.handle? h = s.handle? h := fun h => by simp only [State.handle?, handles]
  simpa only [State.HandlesAgree, acq, same] using agree

/-- A new live handle to an index that was not acquired, and is now (R90). -/
theorem handlesAgree_of_grant {s t : State} {n : Nat} {j : Buf} (agree : s.HandlesAgree)
    (notAcquired : BufSet.has s.swap.acq j = false) (acq : t.swap.acq = BufSet.add s.swap.acq j)
    (handles : ∀ h, t.handle? h = if h = n then some { idx := j, presented := false } else s.handle? h)
    (fresh : s.handle? n = none) : t.HandlesAgree := by
  obtain ⟨acqIff, unique⟩ := agree
  have noLive : ∀ h, s.handle? h ≠ some { idx := j, presented := false } := fun h e => by
    simp [(acqIff j).2 ⟨h, e⟩] at notAcquired
  refine ⟨fun i => ?_, fun h h' i e e' => ?_⟩
  · rw [acq, has_add, Bool.or_eq_true, beq_iff_eq, acqIff]
    constructor
    · rintro (rfl | ⟨h, e⟩)
      · exact ⟨n, by rw [handles, if_pos rfl]⟩
      · refine ⟨h, ?_⟩
        rw [handles, if_neg, e]
        rintro rfl
        simp [fresh] at e
    · rintro ⟨h, e⟩
      rw [handles] at e
      split at e
      · cases e
        exact .inl rfl
      · exact .inr ⟨h, e⟩
  · rw [handles] at e e'
    split at e <;> split at e'
    · simp_all
    · cases e
      exact absurd e' (noLive h')
    · cases e'
      exact absurd e (noLive h)
    · exact unique h h' i e e'

/-- A live handle goes out of use and its index is no longer acquired (R91, R92). -/
theorem handlesAgree_of_retire {s t : State} {n : Nat} {j : Buf} (agree : s.HandlesAgree)
    (held : s.handle? n = some { idx := j, presented := false }) (acq : t.swap.acq = BufSet.remove s.swap.acq j)
    (others : ∀ h, h ≠ n → t.handle? h = s.handle? h)
    (retired : ∀ i, t.handle? n ≠ some { idx := i, presented := false }) : t.HandlesAgree := by
  obtain ⟨acqIff, unique⟩ := agree
  have live : ∀ h i, t.handle? h = some { idx := i, presented := false } ↔
      h ≠ n ∧ s.handle? h = some { idx := i, presented := false } := fun h i => by
    by_cases e : h = n
    · subst e
      simp [retired]
    · simp [others h e, e]
  refine ⟨fun i => ?_, fun h h' i e e' => unique h h' i ((live h i).1 e).2 ((live h' i).1 e').2⟩
  simp only [acq, has_remove, Bool.and_eq_true, bne_iff_ne, acqIff, live]
  constructor
  · rintro ⟨ne, h, e⟩
    refine ⟨h, ?_, e⟩
    rintro rfl
    rw [held] at e
    cases e
    exact ne rfl
  · rintro ⟨h, ne, e⟩
    refine ⟨?_, h, e⟩
    rintro rfl
    exact ne (unique h n j e held)

/-- A presented handle that is dropped was not live (R92). -/
theorem handlesAgree_of_dropPresented {s t : State} {n : Nat} {j : Buf} (agree : s.HandlesAgree)
    (held : s.handle? n = some { idx := j, presented := true }) (acq : t.swap.acq = s.swap.acq)
    (handles : ∀ h, t.handle? h = if n = h then none else s.handle? h) : t.HandlesAgree := by
  have live : ∀ h i, t.handle? h = some { idx := i, presented := false } ↔
      s.handle? h = some { idx := i, presented := false } := fun h i => by
    rw [handles]
    split
    · rename_i e
      subst e
      simp [held]
    · exact Iff.rfl
  simpa only [State.HandlesAgree, acq, live] using agree

/-- The handles agree with `acq` after every operation of the host (R90 to R92). -/
theorem HostEffect.handlesAgree {s t : State} {i : Instr} (eff : HostEffect s i t)
    (part : s.Partition) (agree : s.HandlesAgree) : t.HandlesAgree := by
  cases eff
  case acquireSome pick j _ free =>
    obtain ⟨notAcquired, -⟩ := (others_clear_of_sum_eq_one (part j)).1 free
    refine handlesAgree_of_grant agree notAcquired rfl
      (fun h => handle?_grantHandle (s.withSwap (s.swap.take j)) j h) ?_
    simp [State.handle?]
  case present h j _ held =>
    have marked := handle?_markPresented (s.withSwap (s.swap.publish j)) h
      { idx := j, presented := false } (handle?_lt held)
    refine handlesAgree_of_retire agree held rfl (fun h' ne => ?_) (fun i => ?_)
    · rw [marked, if_neg ne.symm, handle?_withSwap]
    · simp [marked]
  case dropLive h j _ held =>
    have ended := handle?_endHandle (s.withSwap (s.swap.giveBack j)) h
    refine handlesAgree_of_retire agree held rfl (fun h' ne => ?_) (fun i => ?_)
    · rw [ended, if_neg ne.symm, handle?_withSwap]
    · simp [ended]
  case dropPresented h j _ held =>
    exact handlesAgree_of_dropPresented agree held rfl (handle?_endHandle s h)
  all_goals exact handlesAgree_congr agree rfl rfl

/-! ### What the scanner holds -/

/-- `rel` is set between refresh and release alone, and the scan proper begins with a buffer in use
(R100, R101). -/
theorem ScanEffect.scanHolds {s t : State} {i : Instr} (eff : ScanEffect s i t)
    (holds : s.ScanHolds) : t.ScanHolds := by
  obtain ⟨relNone, curSome⟩ := holds
  cases eff
  case refreshSome | refreshNone => exact ⟨fun h => absurd rfl h, fun _ h => absurd rfl h⟩
  case releaseSome j p atRelease rel next =>
    refine ⟨fun _ => rfl, fun h1 _ => ?_⟩
    rcases next with ⟨_, rfl⟩ | ⟨inUse, _⟩
    · exact absurd rfl h1
    · exact inUse
  case releaseNone p atRelease rel next =>
    refine ⟨fun _ => rel, fun h1 _ => ?_⟩
    rcases next with ⟨_, rfl⟩ | ⟨inUse, _⟩
    · exact absurd rfl h1
    · exact inUse
  case collect | release | deliverPix | deliverGrid | dropPix | dropGrid => exact ⟨relNone, curSome⟩
  case adv atAdv => exact ⟨fun _ => relNone (by simp [atAdv]), fun h => absurd rfl h⟩
  all_goals
    rename s.scan.ph = _ => atPhase
    simp only [atPhase, ne_eq, reduceCtorEq, not_false_eq_true, forall_const] at relNone curSome
    exact ⟨fun _ => relNone, fun _ _ => curSome⟩

/-! ### The ownership discipline -/

theorem ownership_congr {s t : State} (own : s.Ownership) (scan : t.scan = s.scan)
    (swap : t.swap = s.swap) (handles : t.handles = s.handles) : t.Ownership := by
  obtain ⟨part, agree, holds⟩ := own
  exact ⟨partition_congr part swap (by rw [scan]) (by rw [scan]),
    handlesAgree_congr agree (by rw [swap]) handles, by simpa only [State.ScanHolds, scan] using holds⟩

/-- The scanner and the buses give and take no handle. -/
theorem ScanEffect.ownership {s t : State} {i : Instr} (eff : ScanEffect s i t) (noBody : i.isBody = false)
    (own : s.Ownership) : t.Ownership := by
  obtain ⟨part, agree, holds⟩ := own
  refine ⟨eff.partition noBody part holds, ?_, eff.scanHolds holds⟩
  cases eff
  case collect | release => cases noBody
  all_goals exact handlesAgree_congr agree rfl rfl

theorem InputEffect.ownership {s t : State} {i : Instr} (eff : InputEffect s i t)
    (own : s.Ownership) : t.Ownership := by
  cases eff
  all_goals exact ownership_congr own rfl rfl rfl

/-- The host moves no register of the scanner. -/
theorem HostEffect.ownership {s t : State} {i : Instr} (eff : HostEffect s i t)
    (own : s.Ownership) : t.Ownership := by
  obtain ⟨part, agree, holds⟩ := own
  refine ⟨eff.partition part agree, eff.handlesAgree part agree, ?_⟩
  have scan : t.scan = s.scan := by cases eff <;> rfl
  simpa only [State.ScanHolds, scan] using holds

/-- An agent step takes an operation that is no body of the swap chain (log 16). -/
theorem isBody_of_isAgentStep {slot : Slot} {i : Instr} {tail : List Byte} (agent : slot.isAgentStep = true)
    (read : decode slot.bytes = .ok (i, tail)) : i.isBody = false := by
  simpa [Slot.isAgentStep, read] using agent

/-- Settles O29, by the effect of the operation taken; taking it from the agenda moves no buffer. -/
theorem stepKeepsOwnership : Obligations.StepKeepsOwnership := by
  intro s t slot rest onAgenda agent own stepped
  rcases step_next stepped with ⟨empty, -⟩ | ⟨slot', rest', i, tail, onAgenda', -, read, eff⟩
  · simp [empty] at onAgenda
  · rw [onAgenda] at onAgenda'
    cases onAgenda'
    have arrived : (s.arrive slot rest).Ownership := ownership_congr own rfl rfl rfl
    rcases eff with rfl | eff | eff | ⟨-, eff⟩
    · exact arrived
    · exact eff.ownership (isBody_of_isAgentStep agent read) arrived
    · exact eff.ownership arrived
    · exact eff.ownership arrived

theorem reset_ownership : State.reset.Ownership := by
  refine ⟨by unfold State.Partition; decide, ⟨fun i => ?_, fun h h' i e => ?_⟩, by decide, by decide⟩
  · have notAcquired : BufSet.has State.reset.swap.acq i = false := by revert i; decide
    rw [notAcquired]
    simp [State.handle?, State.reset]
  · simp [State.handle?, State.reset] at e

theorem reachable_ownership {s : State} (reach : Reachable s) : s.Ownership :=
  reachable_of_step reset_ownership (fun _ _ own => ownership_congr own rfl rfl rfl)
    (fun _ _ _ agent onAgenda own stepped => stepKeepsOwnership _ _ _ _ onAgenda agent own stepped) reach

/-- The buffer in use is in no other place, so not acquired (R51). -/
theorem acq_eq_false_of_cur {s : State} (part : s.Partition) {b : Buf} (inUse : s.scan.cur = some b) :
    BufSet.has s.swap.acq b = false := by
  cases acquired : BufSet.has s.swap.acq b with
  | false => rfl
  | true =>
    obtain ⟨-, -, notInUse, -⟩ := (others_clear_of_sum_eq_one (part b)).2.1 acquired
    simp [inUse] at notInUse

/-- Settles O30: a reachable state has the discipline, and an index in one place is not in two. -/
theorem reachableBuffersHaveOnePlace : Obligations.ReachableBuffersHaveOnePlace := by
  intro s reach
  obtain ⟨part, -, -⟩ := reachable_ownership reach
  refine ⟨part, ?_, fun b inUse => acq_eq_false_of_cur part inUse⟩
  simp [State.indexTwice, part 0, part 1, part 2]

/-! ### Who writes the frame store -/

/-- Only the host writes bytes, and only of a buffer that is acquired (R169). -/
theorem HostEffect.readByte {s t : State} {i : Instr} (eff : HostEffect s i t) {b : Buf}
    (notAcquired : BufSet.has s.swap.acq b = false) (off : Offset) : t.readByte b off = s.readByte b off := by
  have other : ∀ {b' : Buf}, BufSet.has s.swap.acq b' = true → b' ≠ b := by
    rintro b' acquired rfl
    simp [notAcquired] at acquired
  cases eff
  case pixel h b' x y c _ acquired =>
    rw [readByte_writePixel, if_neg (fun e => other acquired e.1)]
  case clear h b' c _ acquired => rw [readByte_fillBuffer, if_neg (other acquired)]
  all_goals rfl

theorem exec_readByte {s t : State} {i : Instr} (taken : exec i s = .next t) {b : Buf}
    (notAcquired : BufSet.has s.swap.acq b = false) (off : Offset) : t.readByte b off = s.readByte b off := by
  rcases exec_next taken with rfl | eff | eff | ⟨-, eff⟩
  · rfl
  · exact readByte_congr s t (by cases eff <;> rfl) b off
  · exact readByte_congr s t (by cases eff <;> rfl) b off
  · exact eff.readByte notAcquired off

/-- Settles O31: the buffer in use is not acquired, so the second clause is a case of the first. -/
theorem onlyAcquiredBuffersChange : Obligations.OnlyAcquiredBuffersChange := by
  intro i s t taken
  refine ⟨fun b notAcquired off => exec_readByte taken notAcquired off, fun own b inUse off => ?_⟩
  exact exec_readByte taken (acq_eq_false_of_cur own.1 inUse) off

end Sys2Proof.Machine
end

section
/-! PROOFS. The serial queues and the control lines along the phases of a cycle, and the growth of the
trace (20_memory.md R52, 42_display_scanner.md R116, 70_reset_and_hazards.md R186, R187, R197, R198). -/

namespace Sys2Proof.Machine

/-- What the arrival of an operation and every effect keep, every step keeps. -/
theorem step_keeps {P : State → Prop} (arrive : ∀ s slot rest, P s → P (s.arrive slot rest))
    (scan : ∀ {s t : State} {i : Instr}, ScanEffect s i t → P s → P t)
    (input : ∀ {s t : State} {i : Instr}, InputEffect s i t → P s → P t)
    (host : ∀ {s t : State} {i : Instr}, HostEffect s i t → P s → P t) (s t : State) (holds : P s)
    (stepped : step s = .next t) : P t := by
  rcases step_next stepped with ⟨-, rfl⟩ | ⟨slot, rest, i, tail, -, -, -, eff⟩
  · exact holds
  · have arrived := arrive s slot rest holds
    rcases eff with rfl | eff | eff | ⟨-, eff⟩
    · exact arrived
    · exact scan eff arrived
    · exact input eff arrived
    · exact host eff arrived

/-! ### The serial queues -/

theorem queuesFollowPhase_congr {s t : State} (queues : s.QueuesFollowPhase) (bus : t.bus = s.bus)
    (ph : t.scan.ph = s.scan.ph) : t.QueuesFollowPhase := by
  simpa only [State.QueuesFollowPhase, bus, ph] using queues

/-- A delivery or loss leaves an empty queue empty; an emission is at its own phase, and the flush
passes with both queues empty alone (R106, R114, R115). -/
theorem ScanEffect.queuesFollowPhase {s t : State} {i : Instr} (eff : ScanEffect s i t)
    (queues : s.QueuesFollowPhase) : t.QueuesFollowPhase := by
  cases eff
  case collect | release => exact queuesFollowPhase_congr queues rfl rfl
  case deliverPix b rest queued | dropPix b rest queued =>
    obtain ⟨pixEmpty, gridEmpty⟩ := queues
    refine ⟨fun h1 h2 => ?_, gridEmpty⟩
    simp [pixEmpty h1 h2] at queued
  case deliverGrid b rest queued | dropGrid b rest queued =>
    obtain ⟨pixEmpty, gridEmpty⟩ := queues
    refine ⟨pixEmpty, fun h => ?_⟩
    simp [gridEmpty h] at queued
  case pixA b atPix _ _ | pixB b atPix _ _ | pixC b atPix _ _ =>
    obtain ⟨-, gridEmpty⟩ := queues
    exact ⟨fun h => absurd rfl h, fun _ => gridEmpty (by simp [atPix])⟩
  case grid atGrid => exact ⟨fun _ h => absurd rfl h, fun h => absurd rfl h⟩
  case flush atFlush pixEmpty gridEmpty => exact ⟨fun _ _ => pixEmpty, fun _ => gridEmpty⟩
  all_goals
    rename s.scan.ph = _ => atPhase
    obtain ⟨pixEmpty, gridEmpty⟩ := queues
    simp only [atPhase, ne_eq, reduceCtorEq, not_false_eq_true, forall_const] at pixEmpty gridEmpty
    exact ⟨fun _ _ => pixEmpty, fun _ => gridEmpty⟩

/-- Settles O57, by the effect of the operation taken: the scanner and the buses alone move queues. -/
theorem stepKeepsQueuesFlushedBeforeLatch : Obligations.StepKeepsQueuesFlushedBeforeLatch :=
  step_keeps (fun _ _ _ queues => queuesFollowPhase_congr queues rfl rfl) ScanEffect.queuesFollowPhase
    (fun eff queues => queuesFollowPhase_congr queues (by cases eff <;> rfl) (by cases eff <;> rfl))
    (fun eff queues => queuesFollowPhase_congr queues (by cases eff <;> rfl) (by cases eff <;> rfl))

/-! ### The control-line events -/

theorem controlEvents_append (a b : List TraceEntry) :
    controlEvents (a ++ b) = controlEvents a ++ controlEvents b := List.filterMap_append

/-- A list grows at its end by an element that its last one is in the relation with. -/
theorem neighbours_append_singleton {α : Type} (r : α → α → Bool) (l : List α) (b : α) :
    neighbours r (l ++ [b]) = true ↔ neighbours r l = true ∧ ∀ a, l.getLast? = some a → r a b = true := by
  induction l with
  | nil => simp [neighbours]
  | cons c rest ih =>
    cases rest with
    | nil => simp [neighbours]
    | cons d rest =>
      simp only [List.cons_append, neighbours, Bool.and_eq_true] at ih ⊢
      rw [ih, List.getLast?_cons_cons, and_assoc]

/-- The sequence goes on with an event that follows the last one, or begins with `BLANK` 0 after the
blanking window. -/
theorem controlSequence_append {trace : List TraceEntry} {e : TraceEntry} {c : Time × PinPair × Level}
    (isControl : controlEvents [e] = [c]) (seq : ControlSequence trace)
    (follows : ∀ a, (controlEvents trace).getLast? = some a → controlFollows a c = true)
    (begins : controlEvents trace = [] → c.2 = (.blank, false) ∧ Config.tWindow ≤ c.1) :
    ControlSequence (trace ++ [e]) := by
  obtain ⟨ordered, first⟩ := seq
  unfold ControlSequence
  rw [controlEvents_append, isControl]
  refine ⟨(neighbours_append_singleton _ _ _).2 ⟨ordered, follows⟩, fun a isFirst => ?_⟩
  cases events : controlEvents trace with
  | nil =>
    rw [events] at isFirst
    cases isFirst
    exact begins events
  | cons d rest =>
    rw [events] at isFirst
    exact first a (by rw [events]; exact isFirst)

/-- The sequence goes on with the event that is due after the last one. -/
theorem controlSequence_append_due {trace : List TraceEntry} {e : TraceEntry} {last next : Time × PinPair × Level}
    (seq : ControlSequence trace) (isLast : (controlEvents trace).getLast? = some last)
    (due : controlFollows last next = true) (isControl : controlEvents [e] = [next]) :
    ControlSequence (trace ++ [e]) := by
  refine controlSequence_append isControl seq (fun a isLast' => ?_) (fun empty => ?_)
  · rw [isLast] at isLast'
    cases isLast'
    exact due
  · rw [empty] at isLast
    cases isLast

theorem controlSequence_congr {trace trace' : List TraceEntry} (seq : ControlSequence trace)
    (events : controlEvents trace' = controlEvents trace) : ControlSequence trace' := by
  simpa only [ControlSequence, events] using seq

/-- What is no control-line event leaves the sequence as it is. -/
theorem controlEvents_append_other {e : TraceEntry} (other : controlEvents [e] = []) (trace : List TraceEntry) :
    controlEvents (trace ++ [e]) = controlEvents trace := by
  rw [controlEvents_append, other, List.append_nil]

/-- What the registers say of the last event stays true while the clock runs on. -/
theorem controlFollowsPhase_congr {s t : State} (follows : s.ControlFollowsPhase)
    (events : controlEvents t.trace = controlEvents s.trace) (ph : t.scan.ph = s.scan.ph)
    (arm : t.scan.tArm = s.scan.tArm) (ctl : t.scan.tCtl = s.scan.tCtl) (now : s.now ≤ t.now) :
    t.ControlFollowsPhase := by
  unfold State.ControlFollowsPhase at follows ⊢
  rw [events, ph, arm, ctl]
  cases atPhase : s.scan.ph <;> rw [atPhase] at follows
  case arm =>
    obtain ⟨at_, last, passed⟩ := follows
    exact ⟨at_, last, le_trans passed now⟩
  case blankOn => exact ⟨follows.1, le_trans follows.2 now⟩
  all_goals exact follows

/-- Instants stay between reset and now if each is kept or stamped now. -/
theorem stampsHavePassed_of_stamped {s t : State} (stamps : s.StampsHavePassed) (now : s.now ≤ t.now)
    (arm : t.scan.tArm = s.scan.tArm ∨ t.scan.tArm = s.now)
    (ctl : t.scan.tCtl = s.scan.tCtl ∨ t.scan.tCtl = s.now)
    (enc : t.enc.tEnc = s.enc.tEnc ∨ t.enc.tEnc = s.now) : t.StampsHavePassed := by
  obtain ⟨nowNonneg, armPassed, ctlPassed, encPassed⟩ := stamps
  have passed : ∀ {x y : Time}, (0 ≤ x ∧ x ≤ s.now) → (y = x ∨ y = s.now) → 0 ≤ y ∧ y ≤ t.now := by
    rintro x y ⟨nonneg, le⟩ (rfl | rfl)
    · exact ⟨nonneg, le_trans le now⟩
    · exact ⟨nowNonneg, now⟩
  exact ⟨le_trans nowNonneg now, passed armPassed arm, passed ctlPassed ctl, passed encPassed enc⟩

theorem controlSafe_congr {s t : State} (safe : s.ControlSafe)
    (events : controlEvents t.trace = controlEvents s.trace) (scan : t.scan = s.scan)
    (now : s.now ≤ t.now) (enc : t.enc.tEnc = s.enc.tEnc ∨ t.enc.tEnc = s.now) : t.ControlSafe := by
  obtain ⟨seq, follows, stamps⟩ := safe
  exact ⟨controlSequence_congr seq events,
    controlFollowsPhase_congr follows events (by rw [scan]) (by rw [scan]) (by rw [scan]) now,
    stampsHavePassed_of_stamped stamps now (.inl (by rw [scan])) (.inl (by rw [scan])) enc⟩

/-- Each control operation adds the event that its phase says is due (R108 to R111). -/
theorem ScanEffect.controlSequence {s t : State} {i : Instr} (eff : ScanEffect s i t)
    (safe : s.ControlSafe) : ControlSequence t.trace := by
  obtain ⟨seq, follows, -, ⟨armNonneg, -⟩, -⟩ := safe
  unfold State.ControlFollowsPhase at follows
  cases eff
  case blankOn atPhase =>
    rw [atPhase] at follows
    obtain ⟨last, window⟩ := follows
    refine controlSequence_append (trace := s.trace) (c := (s.now, .blank, false)) rfl seq
      (fun a isLast => ?_) (fun _ => ⟨rfl, by linarith⟩)
    obtain ⟨isUnblank, armed⟩ := last a isLast
    have apart : a.1 + Config.tWindow ≤ s.now := by linarith
    simp [controlFollows, isUnblank, apart]
  case latchLo atPhase apart =>
    rw [atPhase] at follows
    exact controlSequence_append_due (trace := s.trace) (next := (s.now, .latch, false)) seq follows
      (by simp [controlFollows, apart]) rfl
  case latchHi atPhase apart =>
    rw [atPhase] at follows
    exact controlSequence_append_due (trace := s.trace) (next := (s.now, .latch, true)) seq follows
      (by simp [controlFollows, apart]) rfl
  case blankOff atPhase apart =>
    rw [atPhase] at follows
    exact controlSequence_append_due (trace := s.trace) (next := (s.now, .blank, true)) seq follows
      (by simp [controlFollows, apart]) rfl
  case deliverPix | deliverGrid =>
    exact controlSequence_congr (trace := s.trace) seq (controlEvents_append_other rfl s.trace)
  all_goals exact seq

/-- Each operation leaves the registers saying which control-line event was the last (R108 to R112). -/
theorem ScanEffect.controlFollowsPhase {s t : State} {i : Instr} (eff : ScanEffect s i t)
    (safe : s.ControlSafe) : t.ControlFollowsPhase := by
  obtain ⟨-, follows, -⟩ := safe
  cases eff
  case collect | release | dropPix | dropGrid =>
    exact controlFollowsPhase_congr follows rfl rfl rfl rfl (le_refl _)
  case deliverPix | deliverGrid =>
    exact controlFollowsPhase_congr follows (controlEvents_append_other rfl _) rfl rfl rfl (le_refl _)
  all_goals
    rename s.scan.ph = _ => atPhase
    unfold State.ControlFollowsPhase at follows
    rw [atPhase] at follows
  case waitwin window => exact ⟨follows, window⟩
  case blankOn | latchLo | latchHi => simp [State.ControlFollowsPhase, controlEvents]
  case blankOff =>
    refine ⟨s.now, ?_, le_refl _⟩
    simp [controlEvents]
  case arm =>
    obtain ⟨at_, last, passed⟩ := follows
    intro e isLast
    cases last.symm.trans isLast
    exact ⟨rfl, passed⟩
  case releaseSome j p _ next | releaseNone p _ next =>
    rcases next with ⟨-, rfl⟩ | ⟨-, rfl⟩ <;> exact follows
  all_goals exact follows

/-- Whatever the scanner and the buses stamp, they stamp now. -/
theorem ScanEffect.stampsHavePassed {s t : State} {i : Instr} (eff : ScanEffect s i t)
    (stamps : s.StampsHavePassed) : t.StampsHavePassed := by
  cases eff
  case arm => exact stampsHavePassed_of_stamped stamps (le_refl _) (.inr rfl) (.inl rfl) (.inl rfl)
  case blankOn | latchLo | latchHi =>
    exact stampsHavePassed_of_stamped stamps (le_refl _) (.inl rfl) (.inr rfl) (.inl rfl)
  all_goals exact stampsHavePassed_of_stamped stamps (le_refl _) (.inl rfl) (.inl rfl) (.inl rfl)

/-- The handlers and the pins record no control-line event of the scanner, and stamp at most the
handler's entry, now (R121). -/
theorem InputEffect.controlSafe {s t : State} {i : Instr} (eff : InputEffect s i t)
    (safe : s.ControlSafe) : t.ControlSafe := by
  cases eff
  case scan => exact controlSafe_congr safe (controlEvents_append_other rfl _) rfl (le_refl _) (.inl rfl)
  case enter => exact controlSafe_congr safe rfl rfl (le_refl _) (.inr rfl)
  all_goals exact controlSafe_congr safe rfl rfl (le_refl _) (.inl rfl)

theorem HostEffect.controlSafe {s t : State} {i : Instr} (eff : HostEffect s i t)
    (safe : s.ControlSafe) : t.ControlSafe := by
  cases eff
  all_goals exact controlSafe_congr safe rfl rfl (le_refl _) (.inl rfl)

theorem ScanEffect.controlSafe {s t : State} {i : Instr} (eff : ScanEffect s i t)
    (safe : s.ControlSafe) : t.ControlSafe := by
  have ⟨_, _, stamps⟩ := safe
  exact ⟨eff.controlSequence safe, eff.controlFollowsPhase safe, eff.stampsHavePassed stamps⟩

/-- Settles O58, by the effect of the operation taken; on its arrival only the clock runs on. -/
theorem stepKeepsControlSequence : Obligations.StepKeepsControlSequence :=
  step_keeps (fun _ _ _ safe => controlSafe_congr safe rfl rfl (le_max_left _ _) (.inl rfl))
    ScanEffect.controlSafe InputEffect.controlSafe HostEffect.controlSafe

/-! ### The trace and the clock -/

/-- An operation takes no time and only appends events of its instant (R35). -/
def AppendsNow (s t : State) : Prop :=
  t.now = s.now ∧ ∃ new : List TraceEntry, t.trace = s.trace ++ new ∧ ∀ e ∈ new, e.time = s.now

theorem appendsNow_of_eq {s t : State} (now : t.now = s.now) (trace : t.trace = s.trace) : AppendsNow s t :=
  ⟨now, [], by simp [trace], by simp⟩

theorem appendsNow_of_event {s t : State} {e : Event} (now : t.now = s.now)
    (trace : t.trace = s.trace ++ [{ time := s.now, event := e }]) : AppendsNow s t :=
  ⟨now, _, trace, by simp⟩

theorem exec_appendsNow {i : Instr} {s t : State} (taken : exec i s = .next t) : AppendsNow s t := by
  rcases exec_next taken with rfl | eff | eff | ⟨-, eff⟩
  · exact appendsNow_of_eq rfl rfl
  · cases eff
    case blankOn | latchLo | latchHi | blankOff | deliverPix | deliverGrid =>
      exact appendsNow_of_event rfl rfl
    all_goals exact appendsNow_of_eq rfl rfl
  · cases eff
    case scan => exact appendsNow_of_event rfl rfl
    all_goals exact appendsNow_of_eq rfl rfl
  · cases eff
    all_goals exact appendsNow_of_eq rfl rfl

/-- Settles O56: the clock runs on when the operation arrives, and its events carry that instant. -/
theorem traceGrowsInTimeOrder : Obligations.TraceGrowsInTimeOrder := by
  intro s t stepped
  rcases step_cases s with ⟨-, e⟩ | ⟨_, _, _, _, e⟩ | ⟨slot, rest, i, tail, _, _, _, e⟩ <;> rw [e] at stepped
  · cases stepped
    exact ⟨le_refl _, [], by simp, by simp⟩
  · cases stepped
  · obtain ⟨now, new, trace, stamped⟩ := exec_appendsNow stepped
    refine ⟨by rw [now]; exact le_max_left _ _, new, trace, fun e he => ?_⟩
    rw [now, stamped e he]

end Sys2Proof.Machine
end

section
/-! PROOFS. The step and its fetch, what the host is refused, and when an agent holds (60_exceptions.md
R155, R169, R170, 42_display_scanner.md header). -/

namespace Sys2Proof.Machine

/-! ### The fetch -/

theorem fetch_run {s : State} {slot : Slot} {rest : List Slot} {i : Instr} {tail : List Byte}
    (onAgenda : s.agenda = slot :: rest) (once : s.indexTwice = false)
    (read : decode slot.bytes = .ok (i, tail)) : fetch s = .run i (s.arrive slot rest) := by
  unfold fetch
  simp [onAgenda, once, read]

/-- Settles O4: `arrive` is the state of the statement (log 2, 4). -/
theorem stepRunsDecodedOperation : Obligations.StepRunsDecodedOperation := by
  intro s slot rest i tail onAgenda once read
  unfold step
  rw [fetch_run onAgenda once read]
  rfl

/-- Settles O5, by what stands at the head of the agenda: nothing, a slot in a state that is refused,
a slot that is no operation (log 2, 17). -/
theorem stepWithoutOperation : Obligations.StepWithoutOperation := by
  refine ⟨fun s empty => ?_, fun s slot rest onAgenda twice => ?_, fun s slot rest e onAgenda once read => ?_⟩
  · have nothing : fetch s = .nothing := by simp [fetch, empty]
    rw [step, nothing]
  · have refused : fetch s = .refuse .unreachableState := by simp [fetch, onAgenda, twice]
    rw [step, refused]
  · have refused : fetch s = .refuse (.undecodable e) := by simp [fetch, onAgenda, once, read]
    rw [step, refused]

/-! ### What is refused -/

/-- An operation through a handle answers what the operation on its buffer does, or is refused for
the handle (R85, R170). -/
theorem withLiveHandle_refused {h : Nat} {s : State} {k : Buf → Out} {r : Refusal}
    (refused : withLiveHandle h s k = .refused r) :
    (r = .handleNotHeld ∧ s.handle? h = none) ∨
    (r = .handleNotWritable ∧ ∃ hd, s.handle? h = some hd ∧
      (hd.presented = true ∨ BufSet.has s.swap.acq hd.idx = false)) ∨
    ∃ b, k b = .refused r := by
  rcases withLiveHandle_cases h s k with ⟨notHeld, e⟩ | ⟨hd, held, notLive, e⟩ | ⟨b, -, -, e⟩ <;>
    rw [e] at refused
  · cases refused
    exact .inl ⟨rfl, notHeld⟩
  · cases refused
    exact .inr (.inl ⟨rfl, hd, held, notLive⟩)
  · exact .inr (.inr ⟨b, refused⟩)

theorem rawSet_refused {b : Buf} {x y : Int} {c : Bool} {s : State} {r : Refusal}
    (refused : rawSet b x y c s = .refused r) : r = .rawOutOfRange ∧ rawCoord? x y = none := by
  unfold rawSet at refused
  split at refused <;> cases refused
  exact ⟨rfl, ‹_›⟩

theorem rawGet_refused {b : Buf} {x y : Int} {s : State} {r : Refusal}
    (refused : rawGet b x y s = .refused r) : r = .rawOutOfRange ∧ rawCoord? x y = none := by
  unfold rawGet at refused
  split at refused <;> cases refused
  exact ⟨rfl, ‹_›⟩

theorem pixLine_ne_refused (k : PatternClass) (bytes : Buf → List Byte) (s : State) (r : Refusal) :
    pixLine k bytes s ≠ .refused r := by
  rcases pixLine_cases k bytes s with ⟨_, _, _, _, e⟩ | e <;> simp [e]

/-- Why an operation is refused: the misuse that took place, by the reason it is refused for. -/
inductive Misuse (s : State) (i : Instr) : Refusal → Prop where
  | notHeld (h : Nat) : i.agent = .host → handleOf i = some h → s.handle? h = none → Misuse s i .handleNotHeld
  | notWritable (h : Nat) (hd : Handle) : i.agent = .host → fbHandleOf i = some h → s.handle? h = some hd →
      (hd.presented = true ∨ BufSet.has s.swap.acq hd.idx = false) → Misuse s i .handleNotWritable
  | outOfRange (x y : Int) : i.agent = .host → rawCoordOf i = some (x, y) → rawCoord? x y = none →
      Misuse s i .rawOutOfRange
  | outOfOrder : i.agent = .host → ((i = .aggEnc ∧ s.agg.aggPh ≠ .enc) ∨
      (i = .aggBtn ∧ ∀ k, s.agg.aggPh ≠ .btn k) ∨ (i = .aggUpdate ∧ s.agg.aggPh ≠ .update)) →
      Misuse s i .aggOutOfOrder

/-- A frame store operation that is refused has misused its handle, or its body is refused. -/
theorem misuse_of_withLiveHandle {s : State} {i : Instr} {h : Nat} {k : Buf → Out} {r : Refusal}
    (host : i.agent = .host) (fb : fbHandleOf i = some h) (handle : handleOf i = some h)
    (body : ∀ b, k b = .refused r → Misuse s i r) (refused : withLiveHandle h s k = .refused r) :
    Misuse s i r := by
  rcases withLiveHandle_refused refused with ⟨rfl, notHeld⟩ | ⟨rfl, hd, held, notLive⟩ | ⟨b, e⟩
  · exact .notHeld h host handle notHeld
  · exact .notWritable h hd host fb held notLive
  · exact body b e

/-- Every refusal is the misuse of a host operation (R169, R170). -/
theorem exec_refused {i : Instr} {s : State} {r : Refusal} (refused : exec i s = .refused r) :
    Misuse s i r := by
  cases i <;> simp only [exec] at refused
  case fbSet h x y c =>
    refine misuse_of_withLiveHandle rfl rfl rfl (fun b e => ?_) refused
    split at e
    · rename_i inside
      obtain ⟨p, inRaw⟩ := rawCoord?_of_logical inside
      simp [(rawSet_refused e).2] at inRaw
    · cases e
  case fbGet h x y =>
    refine misuse_of_withLiveHandle rfl rfl rfl (fun b e => ?_) refused
    split at e
    · rename_i inside
      obtain ⟨p, inRaw⟩ := rawCoord?_of_logical inside
      simp [(rawGet_refused e).2] at inRaw
    · cases e
  case fbClear h c => exact misuse_of_withLiveHandle rfl rfl rfl (fun b e => by cases e) refused
  case fbSetRaw h x y c =>
    refine misuse_of_withLiveHandle rfl rfl rfl (fun b e => ?_) refused
    obtain ⟨rfl, outside⟩ := rawSet_refused e
    exact .outOfRange x y rfl rfl outside
  case fbGetRaw h x y =>
    refine misuse_of_withLiveHandle rfl rfl rfl (fun b e => ?_) refused
    obtain ⟨rfl, outside⟩ := rawGet_refused e
    exact .outOfRange x y rfl rfl outside
  case scPresent h =>
    unfold execScPresent at refused
    split at refused
    · cases refused
      exact .notHeld h rfl rfl ‹_›
    · split at refused <;> cases refused
  case scDrop h =>
    unfold execScDrop at refused
    split at refused
    · cases refused
      exact .notHeld h rfl rfl ‹_›
    · split at refused <;> cases refused
  case scAcquire pick =>
    unfold execScAcquire at refused
    split at refused <;> cases refused
  case aggEnc =>
    unfold execAggEnc at refused
    split at refused <;> cases refused <;> rename_i e <;> exact .outOfOrder rfl (.inl ⟨rfl, by simp [e]⟩)
  case aggBtn =>
    unfold execAggBtn at refused
    split at refused <;> cases refused <;> rename_i e <;>
      exact .outOfOrder rfl (.inr (.inl ⟨rfl, by simp [e]⟩))
  case aggUpdate =>
    unfold execAggUpdate at refused
    split at refused <;> cases refused <;> rename_i e <;>
      exact .outOfOrder rfl (.inr (.inr ⟨rfl, by simp [e]⟩))
  case scCollect | scRelease => cases refused
  case encEdgeAFall | encEdgeARise | encEdgeBFall | encEdgeBRise => cases refused
  case scanPixA => exact absurd refused (pixLine_ne_refused _ _ _ _)
  case scanPixB => exact absurd refused (pixLine_ne_refused _ _ _ _)
  case scanPixC => exact absurd refused (pixLine_ne_refused _ _ _ _)
  case busDeliverPix =>
    unfold execBusDeliverPix at refused
    split at refused <;> cases refused
  case busDeliverGrid =>
    unfold execBusDeliverGrid at refused
    split at refused <;> cases refused
  case busDropPix =>
    unfold execBusDropPix at refused
    split at refused <;> cases refused
  case busDropGrid =>
    unfold execBusDropGrid at refused
    split at refused <;> cases refused
  all_goals exact absurd refused (whenEnabled_ne_refused _ _ _ _)

/-- Settles O6: each reason leaves the one misuse it is raised for. -/
theorem onlyHostMisuseIsRefused : Obligations.OnlyHostMisuseIsRefused := by
  intro i s r refused
  cases exec_refused refused with
  | notHeld h host handle notHeld => simp [host, handle, notHeld]
  | notWritable h hd host handle held notLive => simp [host, handle, held, notLive]
  | outOfRange x y host coord outside =>
    have atOutside := rawCoord?_none.1 outside
    exact ⟨host, by simp, by simp, by simp, fun _ => ⟨x, y, coord, atOutside⟩, by simp⟩
  | outOfOrder host order => simp [host, order]

theorem withLiveHandle_notHeld {h : Nat} {s : State} (k : Buf → Out) (notHeld : s.handle? h = none) :
    withLiveHandle h s k = .refused .handleNotHeld := by
  unfold withLiveHandle
  rw [notHeld]

theorem withLiveHandle_notWritable {h : Nat} {s : State} {hd : Handle} (k : Buf → Out)
    (held : s.handle? h = some hd) (notLive : hd.presented = true ∨ BufSet.has s.swap.acq hd.idx = false) :
    withLiveHandle h s k = .refused .handleNotWritable := by
  unfold withLiveHandle
  rw [held]
  rcases notLive with presented | notAcquired
  · simp [presented]
  · simp [notAcquired]

/-- Every operation of the frame store goes through its handle (R85). -/
theorem exec_through_handle {i : Instr} {h : Nat} (fb : fbHandleOf i = some h) (s : State) :
    ∃ k, exec i s = withLiveHandle h s k := by
  cases i <;> cases fb
  case fbSet x y c => exact ⟨fun b => if inLogicalArea x y then rawSet b x y c s else .next s, rfl⟩
  case fbGet x y =>
    exact ⟨fun b => if inLogicalArea x y then rawGet b x y s else .next (s.answer (.pixel false)), rfl⟩
  case fbClear c => exact ⟨fun b => .next (s.fillBuffer b (fillByte c)), rfl⟩
  case fbSetRaw x y c => exact ⟨fun b => rawSet b x y c s, rfl⟩
  case fbGetRaw x y => exact ⟨fun b => rawGet b x y s, rfl⟩

theorem exec_fb_notHeld {i : Instr} {h : Nat} {s : State} (fb : fbHandleOf i = some h)
    (notHeld : s.handle? h = none) : exec i s = .refused .handleNotHeld := by
  obtain ⟨k, through⟩ := exec_through_handle fb s
  rw [through, withLiveHandle_notHeld k notHeld]

theorem exec_fb_notWritable {i : Instr} {h : Nat} {s : State} {hd : Handle} (fb : fbHandleOf i = some h)
    (held : s.handle? h = some hd) (notLive : hd.presented = true ∨ BufSet.has s.swap.acq hd.idx = false) :
    exec i s = .refused .handleNotWritable := by
  obtain ⟨k, through⟩ := exec_through_handle fb s
  rw [through, withLiveHandle_notWritable k held notLive]

/-- `SC.PRESENT` and `SC.DROP` ask for the handle alone, not for a live one (R91, R92, R170). -/
theorem exec_scPresent_notHeld {s : State} {h : Nat} (notHeld : s.handle? h = none) :
    exec (.scPresent h) s = .refused .handleNotHeld := by
  calc exec (.scPresent h) s
    _ = execScPresent h s := rfl
    _ = _ := by rw [execScPresent, notHeld]

theorem exec_scDrop_notHeld {s : State} {h : Nat} (notHeld : s.handle? h = none) :
    exec (.scDrop h) s = .refused .handleNotHeld := by
  calc exec (.scDrop h) s
    _ = execScDrop h s := rfl
    _ = _ := by rw [execScDrop, notHeld]

/-- Settles O28: the two refusals of `withLiveHandle`, and the aggregator at each other position. -/
theorem hostMisuseIsRefusedByName : Obligations.HostMisuseIsRefusedByName := by
  intro s h x y c
  refine ⟨fun notHeld => ?_, fun hd held notLive => ?_, fun order => ?_, fun order => ?_, fun order => ?_⟩
  · exact ⟨exec_fb_notHeld rfl notHeld, exec_fb_notHeld rfl notHeld, exec_fb_notHeld rfl notHeld,
      exec_fb_notHeld rfl notHeld, exec_fb_notHeld rfl notHeld, exec_scPresent_notHeld notHeld,
      exec_scDrop_notHeld notHeld⟩
  · exact ⟨exec_fb_notWritable rfl held notLive, exec_fb_notWritable rfl held notLive,
      exec_fb_notWritable rfl held notLive, exec_fb_notWritable rfl held notLive,
      exec_fb_notWritable rfl held notLive⟩
  · unfold exec execAggEnc
    cases position : s.agg.aggPh with
    | enc => exact absurd position order
    | btn k => rfl
    | update => rfl
  · unfold exec execAggBtn
    cases position : s.agg.aggPh with
    | btn k => exact absurd position (order k)
    | enc => rfl
    | update => rfl
  · unfold exec execAggUpdate
    cases position : s.agg.aggPh with
    | update => exact absurd position order
    | enc => rfl
    | btn k => rfl

/-! ### When an agent holds -/

/-- An operation that means `whenEnabled` leaves the state as it is where its condition fails. -/
theorem exec_holds {i : Instr} {s t : State} {test : Bool} {enabled : Prop}
    (meaning : exec i s = whenEnabled test s t) (decides : test = true ↔ enabled) (fails : ¬ enabled) :
    exec i s = .next s := (exec_passes_or_holds meaning decides).2 fails

/-- The test of the control-line operations that keep 100 ns from the last event (R109 to R111). -/
theorem separatedTest_iff (s : State) (p : ScanPhase) :
    (s.atPhase p && s.ctrlElapsed) = true ↔ s.scan.ph = p ∧ s.scan.tCtl + 100 ≤ s.now := by
  rw [Bool.and_eq_true, atPhase_iff, ctrlElapsed_iff]

/-- The test of `ENC.ENTER` (R121). -/
theorem enterTest_iff (s : State) :
    (s.enc.encPh == .idle && encPending s.enc) = true ↔ s.enc.encPh = .idle ∧ s.enc.encIf ≠ 0#4 := by
  rw [Bool.and_eq_true, beq_iff_eq, encPending_iff]

/-- The test of `BTN.SCAN` (R136). -/
theorem columnTest_iff (s : State) (col : Fin 2) :
    (s.btn.btnIf && s.btn.btnCol == col) = true ↔ s.btn.btnIf = true ∧ s.btn.btnCol = col := by
  rw [Bool.and_eq_true, beq_iff_eq]

theorem pixLine_holds {k : PatternClass} {bytes : Buf → List Byte} {s : State}
    (fails : ¬ (s.scan.ph = .pix ∧ classOf s.scan.g = k)) : pixLine k bytes s = .next s := by
  rcases pixLine_cases k bytes s with ⟨b, _, atPix, ofClass, _⟩ | holds
  · exact absurd ⟨atPix, ofClass⟩ fails
  · exact holds

theorem pixLine_holds_of_noBuffer {k : PatternClass} {bytes : Buf → List Byte} {s : State}
    (noBuffer : s.scan.cur = none) : pixLine k bytes s = .next s := by
  unfold pixLine
  rw [noBuffer]

theorem encTransition_holds {prev new : BitVec 2} {s : State}
    (fails : ¬ (s.enc.encPh = .settling ∧ s.enc.encPrev = prev ∧ s.enc.tEnc + Config.encSettle ≤ s.now)) :
    encTransition prev new s = .next s := by
  rcases encTransition_cases prev new s with ⟨settling, stored, settled, _⟩ | holds
  · exact absurd ⟨settling, stored, settled⟩ fails
  · exact holds

theorem exec_buses_hold {s : State} :
    (s.bus.pixq = [] → exec .busDeliverPix s = .next s ∧ exec .busDropPix s = .next s) ∧
    (s.bus.gridq = [] → exec .busDeliverGrid s = .next s ∧ exec .busDropGrid s = .next s) := by
  refine ⟨fun empty => ⟨?_, ?_⟩, fun empty => ⟨?_, ?_⟩⟩
  · rw [exec, execBusDeliverPix, empty]
  · rw [exec, execBusDropPix, empty]
  · rw [exec, execBusDeliverGrid, empty]
  · rw [exec, execBusDropGrid, empty]

/-- Settles O7: each operation's test decides its condition; without a buffer in use there is no line
to emit, and an empty queue has nothing to give. -/
theorem notEnabledHolds : Obligations.NotEnabledHolds := by
  intro s
  obtain ⟨pixBus, gridBus⟩ := exec_buses_hold (s := s)
  refine ⟨exec_holds rfl (atPhase_iff s _), exec_holds rfl (atPhase_iff s _), fun fails => ?pixA,
    fun fails => ?pixB, fun fails => ?pixC, fun noBuffer => ⟨pixLine_holds_of_noBuffer noBuffer,
      pixLine_holds_of_noBuffer noBuffer, pixLine_holds_of_noBuffer noBuffer⟩,
    exec_holds rfl (atPhase_iff s _), exec_holds rfl (flushTest_iff s), exec_holds rfl (waitwinTest_iff s),
    exec_holds rfl (atPhase_iff s _), exec_holds rfl (separatedTest_iff s _),
    exec_holds rfl (separatedTest_iff s _), exec_holds rfl (separatedTest_iff s _),
    exec_holds rfl (atPhase_iff s _), exec_holds rfl (atPhase_iff s _), pixBus, gridBus,
    exec_holds rfl (enterTest_iff s), exec_holds rfl beq_iff_eq, ?transitions,
    exec_holds rfl (timerExpired_iff s.btn s.now), fun r0 r1 => exec_holds rfl (columnTest_iff s 0),
    fun r0 r1 => exec_holds rfl (columnTest_iff s 1)⟩
  case pixA => exact pixLine_holds (by rwa [classOf_eq_a])
  case pixB => exact pixLine_holds (by rwa [classOf_eq_b])
  case pixC => exact pixLine_holds (by rwa [classOf_eq_c])
  case transitions =>
    intro p listed fails
    fin_cases listed <;> exact encTransition_holds fails

end Sys2Proof.Machine
end

section
/-! PROOFS. The operations of the scanner and the buses, each where it is enabled
(42_display_scanner.md R100 to R115, 30_encoding.md R61 to R66). -/

namespace Sys2Proof.Machine

/-- An operation that means `whenEnabled` is taken where its condition holds. -/
theorem exec_passes {i : Instr} {s t : State} {test : Bool} {enabled : Prop}
    (meaning : exec i s = whenEnabled test s t) (decides : test = true ↔ enabled) (holds : enabled) :
    exec i s = .next t := (exec_passes_or_holds meaning decides).1 holds

/-! ### Refresh and release -/

theorem exec_scanRefresh_some {s : State} {j : Buf} (atRefresh : s.scan.ph = .refresh)
    (pending : s.swap.pending = some j) :
    exec .scanRefresh s = .next ((s.withSwap { s.swap with pending := none }).withScan
      { s.scan with rel := s.scan.cur, cur := some j, ph := .release }) := by
  have enabled := (atPhase_iff s .refresh).2 atRefresh
  simp only [exec, execScanRefresh, SwapChain.collect, enabled, whenEnabled_true, pending]

theorem exec_scanRefresh_none {s : State} (atRefresh : s.scan.ph = .refresh)
    (nonePending : s.swap.pending = none) :
    exec .scanRefresh s = .next (s.withScan { s.scan with ph := .release }) := by
  have enabled := (atPhase_iff s .refresh).2 atRefresh
  have same : { s.swap with pending := none } = s.swap := by rw [← nonePending]
  simp only [exec, execScanRefresh, SwapChain.collect, enabled, whenEnabled_true, nonePending, same]
  rfl

/-- Settles O8: the two answers of the collect (R100). -/
theorem refreshAdoptsPending : Obligations.RefreshAdoptsPending := fun _ atRefresh =>
  ⟨fun _ pending => exec_scanRefresh_some atRefresh pending, exec_scanRefresh_none atRefresh⟩

/-- The swap chain after the buffer that waits, if one does, is free again (R101). -/
def SwapChain.releaseWaiting (w : SwapChain) : Option Buf → SwapChain
  | some j => w.release j
  | none => w

@[simp] theorem releaseWaiting_pending (w : SwapChain) (waiting : Option Buf) :
    (w.releaseWaiting waiting).pending = w.pending := by cases waiting <;> rfl

@[simp] theorem releaseWaiting_acq (w : SwapChain) (waiting : Option Buf) :
    (w.releaseWaiting waiting).acq = w.acq := by cases waiting <;> rfl

theorem releaseWaiting_free_has (w : SwapChain) (waiting : Option Buf) (k : Buf) :
    BufSet.has (w.releaseWaiting waiting).free k = (decide (waiting = some k) || BufSet.has w.free k) := by
  cases waiting with
  | none => simp [SwapChain.releaseWaiting]
  | some j => simp [SwapChain.releaseWaiting, beq_eq_decide]

theorem exec_scanRelease {s : State} (atRelease : s.scan.ph = .release) :
    exec .scanRelease s = .next ((s.withSwap (s.swap.releaseWaiting s.scan.rel)).withScan
      { s.scan with rel := none, ph := if s.scan.cur = none then .refresh else .pix }) := by
  have enabled := (atPhase_iff s .release).2 atRelease
  simp only [exec, execScanRelease, enabled, whenEnabled_true]
  cases s.scan.rel <;> cases s.scan.cur <;> rfl

/-- Settles O9: what waits is freed, and the next phase follows `cur` (R101). -/
theorem releaseFreesPreviousBuffer : Obligations.ReleaseFreesPreviousBuffer := by
  intro s atRelease
  refine ⟨_, exec_scanRelease atRelease, fun k => releaseWaiting_free_has s.swap s.scan.rel k, ?_⟩
  have kept : s.swap.releaseWaiting s.scan.rel =
      { s.swap with free := (s.swap.releaseWaiting s.scan.rel).free } := by cases s.scan.rel <;> rfl
  rw [State.withScan_swap, State.withSwap_swap, ← kept]
  rfl

/-! ### Pixel and grid bytes -/

/-- The pixel bytes of the present line from buffer `b` (R64). -/
def pixBytes (s : State) (b : Buf) : List Byte :=
  match classOf s.scan.g with
  | .a => pixStream48 s b Config.patternA
  | .b => pixStream48 s b Config.patternB
  | .c => pixStream16 s b

/-- The line's operation emits the line's bytes (R102 to R104). -/
theorem exec_pixOpOf {s : State} {g : GridLine} {b : Buf} (onLine : s.scan.g = g) (atPix : s.scan.ph = .pix)
    (inUse : s.scan.cur = some b) :
    exec (pixOpOf g) s = .next ((s.emitPix (pixBytes s b)).toPhase .grid) := by
  subst onLine
  have enabled := (atPhase_iff s .pix).2 atPix
  unfold pixOpOf pixBytes
  cases ofClass : classOf s.scan.g
  case a => simp only [exec, execScanPixA, pixLine, inUse, enabled, ofClass]; rfl
  case b => simp only [exec, execScanPixB, pixLine, inUse, enabled, ofClass]; rfl
  case c => simp only [exec, execScanPixC, pixLine, inUse, enabled, ofClass]; rfl

theorem pixBytes_length (s : State) (b : Buf) :
    (pixBytes s b).length = if s.scan.g.val = 43 then 16 else 48 := by
  unfold pixBytes
  cases ofClass : classOf s.scan.g
  case a =>
    rw [if_neg ((classOf_eq_a _).1 ofClass).2]
    exact List.length_ofFn
  case b =>
    have even := (classOf_eq_b _).1 ofClass
    rw [if_neg (by omega)]
    exact List.length_ofFn
  case c =>
    rw [if_pos ((classOf_eq_c _).1 ofClass)]
    exact List.length_ofFn

/-- The pattern a byte of a line is masked with: its own on line 43, that of the line's parity on any
other (R64, R104). -/
def patternOf (g : GridLine) (i : Fin 48) : Byte :=
  if h : g.val = 43 ∧ i.val < 16 then Config.patternC ⟨i.val, h.2⟩
  else if g.val % 2 = 1 then Config.patternA else Config.patternB

theorem isTransformOf_of_eq {out stored mask stored' mask' : Byte} (emitted : out = byteTransform stored' mask')
    (stored_eq : stored' = stored) (mask_eq : mask' = mask) : IsTransformOf out stored mask := by
  rw [emitted, stored_eq, mask_eq]
  exact transformReversesAndInverts stored mask

/-- Byte `i` of a line is the transform of byte `i` of its column group (R61 to R64). -/
theorem pixBytes_transform {s : State} {b : Buf} {i : Fin 48} {x : Byte} {off : Offset}
    (emitted : (pixBytes s b)[i.val]? = some x)
    (column : off.val = 48 * ((s.scan.g.val - 1) / 2) + i.val) :
    IsTransformOf x (s.readByte b off) (patternOf s.scan.g i) := by
  have slice : sliceOffset (columnOf s.scan.g) i = off := Fin.ext column.symm
  unfold pixBytes at emitted
  unfold patternOf
  cases ofClass : classOf s.scan.g <;> rw [ofClass] at emitted
  case a =>
    obtain ⟨odd, not43⟩ := (classOf_eq_a _).1 ofClass
    rw [dif_neg (fun h => not43 h.1), if_pos odd]
    simp only [pixStream48, List.getElem?_ofFn, i.isLt, dite_true, Option.some.injEq] at emitted
    exact isTransformOf_of_eq emitted.symm (by rw [← slice]) rfl
  case b =>
    have even := (classOf_eq_b _).1 ofClass
    rw [dif_neg (fun h => by omega), if_neg (by omega)]
    simp only [pixStream48, List.getElem?_ofFn, i.isLt, dite_true, Option.some.injEq] at emitted
    exact isTransformOf_of_eq emitted.symm (by rw [← slice]) rfl
  case c =>
    have is43 := (classOf_eq_c _).1 ofClass
    simp only [pixStream16, List.getElem?_ofFn] at emitted
    split at emitted
    · rename_i inLine
      rw [dif_pos ⟨is43, inLine⟩]
      cases emitted
      have last : lastSliceOffset ⟨i.val, inLine⟩ = off := Fin.ext (by simp [lastSliceOffset, column, is43])
      exact isTransformOf_of_eq rfl (by rw [last]) rfl
    · cases emitted

/-- A list of `n` elements is the list of a vector. -/
theorem exists_vector_of_length {α : Type} {n : Nat} {l : List α} (length : l.length = n) :
    ∃ v : Vector α n, v.toList = l ∧ ∀ i : Fin n, l[i.val]? = some v[i] := by
  subst length
  exact ⟨⟨l.toArray, rfl⟩, rfl, fun i => List.getElem?_eq_getElem i.isLt⟩

/-- Settles O10: the line's operation, by the parity of a line that is not 43 (R102, R103). -/
theorem pixABEmitColumnBytes : Obligations.PixABEmitColumnBytes := by
  intro s b atPix inUse not43
  have emitted := exec_pixOpOf rfl atPix inUse
  have operation : pixOpOf s.scan.g = if s.scan.g.val % 2 = 1 then .scanPixA else .scanPixB := by
    by_cases odd : s.scan.g.val % 2 = 1
    · rw [if_pos odd, pixOpOf, (classOf_eq_a _).2 ⟨odd, not43⟩]
    · rw [if_neg odd, pixOpOf, (classOf_eq_b _).2 (by omega)]
  obtain ⟨out, outList, outBytes⟩ := exists_vector_of_length ((pixBytes_length s b).trans (if_neg not43))
  refine ⟨_, out, operation ▸ emitted, by rw [outList]; rfl, fun i off column => ?_⟩
  have transformed := pixBytes_transform (outBytes i) column
  rwa [patternOf, dif_neg (fun h => not43 h.1)] at transformed

/-- Settles O11: the line's operation on line 43, whose column group is the last (R104). -/
theorem pixCEmitsLastColumnBytes : Obligations.PixCEmitsLastColumnBytes := by
  intro s b atPix inUse is43
  have emitted := exec_pixOpOf rfl atPix inUse
  rw [pixOpOf, (classOf_eq_c _).2 is43] at emitted
  obtain ⟨out, outList, outBytes⟩ := exists_vector_of_length ((pixBytes_length s b).trans (if_pos is43))
  refine ⟨_, out, emitted, by rw [outList]; rfl, fun i off column => ?_⟩
  have transformed := pixBytes_transform (i := ⟨i.val, by omega⟩) (outBytes i) (by rw [column, is43])
  rwa [patternOf, dif_pos ⟨is43, i.isLt⟩] at transformed

theorem exec_scanGrid {s : State} (atGrid : s.scan.ph = .grid) :
    exec .scanGrid s = .next ((s.emitGrid (List.ofFn (gridByte s.scan.g))).toPhase .flush) :=
  exec_passes rfl (atPhase_iff s _) atGrid

/-- The grid-select word is all ones but two powers of 2, which have no bit in common (R65). -/
theorem gridWord_eq (g : GridLine) :
    gridWord g = ~~~(BitVec.twoPow 48 g.val ||| BitVec.twoPow 48 (g.val - 1)) := by
  obtain ⟨g, low, high⟩ := g
  obtain ⟨k, rfl⟩ : ∃ k, g = k + 1 := ⟨g - 1, by omega⟩
  have apart := Nat.two_pow_add_eq_or_of_lt (i := k + 1) (b := 2 ^ k)
    (Nat.pow_lt_pow_right (by omega) (by omega)) 1
  rw [Nat.mul_one] at apart
  have small : 2 ^ (k + 1) ≤ 2 ^ 43 := Nat.pow_le_pow_right (by omega) high
  have double : 2 ^ (k + 1) = 2 * 2 ^ k := by omega
  apply BitVec.eq_of_toNat_eq
  rw [gridWord, BitVec.toNat_not, BitVec.toNat_or, BitVec.toNat_twoPow, BitVec.toNat_twoPow,
    BitVec.toNat_ofNat]
  simp only [Nat.add_sub_cancel]
  rw [Nat.mod_eq_of_lt (a := 2 ^ (k + 1)) (by omega), Nat.mod_eq_of_lt (a := 2 ^ k) (by omega), ← apart,
    Nat.mod_eq_of_lt (by omega)]
  omega

/-- Bit `n` of the grid-select word is 0 for `n = g-1` and `n = g` alone (R65). -/
theorem gridWord_getElem (g : GridLine) (n : Fin 48) :
    (gridWord g)[n.val] = !(n.val == g.val - 1 || n.val == g.val) := by
  simp only [gridWord_eq, BitVec.getElem_not, BitVec.getElem_or, BitVec.getElem_twoPow, beq_eq_decide,
    Bool.or_comm]

/-- The level at time `j` of grid byte `k` is bit `8*k + j` of the word: the byte is reversed, and its
bit 7 goes first (R63, R65). -/
theorem gridByte_wire (g : GridLine) (k : Fin 6) :
    wireBits (gridByte g k) = List.ofFn fun j : Fin 8 => (gridWord g)[8 * k.val + j.val] := by
  unfold wireBits
  congr 1
  funext j
  have mirrored : 7 - (7 - j.val) = j.val := by omega
  have reversed := rev8_getElem ((gridWord g).extractLsb' (8 * k.val) 8) ⟨7 - j.val, by omega⟩
  simp only [mirrored] at reversed
  rw [gridByte, reversed, BitVec.getElem_extractLsb', BitVec.getLsbD_eq_getElem]

/-- The grid bytes on the wire: the levels in time are the bits of the word in order (R63, R65). -/
theorem gridBytes_wire (g : GridLine) :
    (List.ofFn (gridByte g)).flatMap wireBits
      = (List.range 48).map fun n => !(n == g.val - 1 || n == g.val) := by
  calc (List.ofFn (gridByte g)).flatMap wireBits
    _ = (List.ofFn fun k : Fin 6 => wireBits (gridByte g k)).flatten := by
      rw [List.flatMap_def, List.map_ofFn]
      rfl
    _ = List.ofFn fun n : Fin (8 * 6) => (gridWord g)[n.val] := by
      simp only [gridByte_wire]
      exact (List.ofFn_mul' (m := 8) (n := 6) fun n => (gridWord g)[n.val]).symm
    _ = (List.finRange 48).map fun n => !(n.val == g.val - 1 || n.val == g.val) := by
      rw [List.ofFn_eq_map]
      exact List.map_congr_left fun n _ => gridWord_getElem g n
    _ = _ := by rw [← List.map_coe_finRange_eq_range, List.map_map]; rfl

/-- Settles O13: the six bytes of the vector `gridByte g`, on the wire (R105). -/
theorem gridWordClearsTwoBits : Obligations.GridWordClearsTwoBits := by
  intro s atGrid
  obtain ⟨out, outList, -⟩ := exists_vector_of_length (l := List.ofFn (gridByte s.scan.g)) List.length_ofFn
  refine ⟨_, out, exec_scanGrid atGrid, by rw [outList]; rfl, ?_⟩
  rw [outList]
  exact gridBytes_wire s.scan.g

/-! ### The control lines -/

theorem exec_scanBlankOn {s : State} (atPhase : s.scan.ph = .blankOn) :
    exec .scanBlankOn s = .next ((s.driveBlank false).stampCtl.toPhase .latchLo) :=
  exec_passes rfl (atPhase_iff s _) atPhase

theorem exec_scanLatchLo {s : State} (atPhase : s.scan.ph = .latchLo) (apart : s.scan.tCtl + 100 ≤ s.now) :
    exec .scanLatchLo s = .next ((s.driveLatch false).stampCtl.toPhase .latchHi) :=
  exec_passes rfl (separatedTest_iff s _) ⟨atPhase, apart⟩

theorem exec_scanLatchHi {s : State} (atPhase : s.scan.ph = .latchHi) (apart : s.scan.tCtl + 100 ≤ s.now) :
    exec .scanLatchHi s = .next ((s.driveLatch true).stampCtl.toPhase .blankOff) :=
  exec_passes rfl (separatedTest_iff s _) ⟨atPhase, apart⟩

theorem exec_scanBlankOff {s : State} (atPhase : s.scan.ph = .blankOff) (apart : s.scan.tCtl + 100 ≤ s.now) :
    exec .scanBlankOff s = .next ((s.driveBlank true).toPhase .arm) :=
  exec_passes rfl (separatedTest_iff s _) ⟨atPhase, apart⟩

/-- Settles O15: each operation at its phase, the last three 100 ns after the event before. -/
theorem controlLinesFollowSequence : Obligations.ControlLinesFollowSequence := fun _ =>
  ⟨exec_scanBlankOn, exec_scanLatchLo, exec_scanLatchHi, exec_scanBlankOff⟩

/-! ### The serial buses -/

theorem exec_busDeliverPix {s : State} {b : Byte} {rest : List Byte} (queued : s.bus.pixq = b :: rest) :
    exec .busDeliverPix s = .next ((s.withBus { s.bus with pixq := rest }).emitEvent (.pix b)) := by
  rw [exec, execBusDeliverPix, queued]

theorem exec_busDeliverGrid {s : State} {b : Byte} {rest : List Byte} (queued : s.bus.gridq = b :: rest) :
    exec .busDeliverGrid s = .next ((s.withBus { s.bus with gridq := rest }).emitEvent (.grid b)) := by
  rw [exec, execBusDeliverGrid, queued]

theorem exec_busDropPix {s : State} {b : Byte} {rest : List Byte} (queued : s.bus.pixq = b :: rest) :
    exec .busDropPix s = .next (s.withBus { s.bus with pixq := rest }) := by
  rw [exec, execBusDropPix, queued]

theorem exec_busDropGrid {s : State} {b : Byte} {rest : List Byte} (queued : s.bus.gridq = b :: rest) :
    exec .busDropGrid s = .next (s.withBus { s.bus with gridq := rest }) := by
  rw [exec, execBusDropGrid, queued]

/-- Settles O20: the byte at the head of either queue, delivered or lost (R114, R115). -/
theorem busesDeliverOrLoseOldestByte : Obligations.BusesDeliverOrLoseOldestByte := fun _ _ _ =>
  ⟨fun queued => ⟨exec_busDeliverPix queued, exec_busDropPix queued⟩,
    fun queued => ⟨exec_busDeliverGrid queued, exec_busDropGrid queued⟩⟩

/-! ### Operations in a row -/

/-- The first operation of a list is taken at its instant, or now if that has passed. -/
theorem runTimed_cons {t : Time} {i : Instr} {s u : State} (taken : exec i (s.withNow (max s.now t)) = .next u)
    (rest : List (Time × Instr)) : runTimed ((t, i) :: rest) s = runTimed rest u := by
  rw [runTimed, taken]

theorem withNow_max_of_le {s : State} {t : Time} (passed : t ≤ s.now) : s.withNow (max s.now t) = s := by
  rw [max_eq_left passed]
  rfl

/-- As many deliveries as a queue has bytes empty it in order, for any queue of the buses that is read
by `queue`, written by `put` and delivered from by `i` (R114). -/
theorem runTimed_drain {i : Instr} {queue : Buses → List Byte} {put : Buses → List Byte → Buses}
    {event : Byte → Event}
    (deliver : ∀ {s : State} {b : Byte} {rest : List Byte}, queue s.bus = b :: rest →
      exec i s = .next ((s.withBus (put s.bus rest)).emitEvent (event b)))
    (queue_put : ∀ x l, queue (put x l) = l) (put_put : ∀ x l l', put (put x l) l' = put x l')
    (put_queue : ∀ x, put x (queue x) = x) (s : State) {t : Time} (passed : t ≤ s.now) :
    runTimed (List.replicate (queue s.bus).length (t, i)) s = .next { s with
      bus := put s.bus []
      trace := s.trace ++ (queue s.bus).map fun b => ⟨s.now, event b⟩ } := by
  generalize bytes : queue s.bus = q
  induction q generalizing s with
  | nil =>
    have same : put s.bus [] = s.bus := by rw [← bytes, put_queue]
    simp [runTimed, same]
  | cons b rest ih =>
    have taken := deliver bytes
    rw [← withNow_max_of_le passed] at taken
    have drained := ih ((s.withBus (put s.bus rest)).emitEvent (event b)) passed (queue_put s.bus rest)
    rw [List.length_cons, List.replicate_succ, runTimed_cons taken, withNow_max_of_le passed, drained]
    simp [put_put]

theorem runTimed_deliverPix (s : State) {t : Time} (passed : t ≤ s.now) :
    runTimed (List.replicate s.bus.pixq.length (t, .busDeliverPix)) s = .next { s with
      bus := { s.bus with pixq := [] }
      trace := s.trace ++ s.bus.pixq.map fun b => ⟨s.now, .pix b⟩ } :=
  runTimed_drain (queue := Buses.pixq) (put := fun x l => { x with pixq := l }) exec_busDeliverPix
    (fun _ _ => rfl) (fun _ _ _ => rfl) (fun _ => rfl) s passed

theorem runTimed_deliverGrid (s : State) {t : Time} (passed : t ≤ s.now) :
    runTimed (List.replicate s.bus.gridq.length (t, .busDeliverGrid)) s = .next { s with
      bus := { s.bus with gridq := [] }
      trace := s.trace ++ s.bus.gridq.map fun b => ⟨s.now, .grid b⟩ } :=
  runTimed_drain (queue := Buses.gridq) (put := fun x l => { x with gridq := l }) exec_busDeliverGrid
    (fun _ _ => rfl) (fun _ _ _ => rfl) (fun _ => rfl) s passed

/-- Settles O21: either queue is drained in order, whatever its length (R114). -/
theorem deliveriesKeepOrder : Obligations.DeliveriesKeepOrder := fun s _ passed =>
  ⟨runTimed_deliverPix s passed, runTimed_deliverGrid s passed⟩

end Sys2Proof.Machine
end

section
/-! PROOFS. The scanner's next step at every phase, and one pass over a line
(42_display_scanner.md R116 to R118). -/

namespace Sys2Proof.Machine

theorem exec_scanFlush {s : State} (atPhase : s.scan.ph = .flush) (pixEmpty : s.bus.pixq = [])
    (gridEmpty : s.bus.gridq = []) : exec .scanFlush s = .next (s.toPhase .waitwin) :=
  exec_passes rfl (flushTest_iff s) ⟨atPhase, pixEmpty, gridEmpty⟩

theorem exec_scanWaitwin {s : State} (atPhase : s.scan.ph = .waitwin) (window : s.scan.tArm + 5000 ≤ s.now) :
    exec .scanWaitwin s = .next (s.toPhase .blankOn) :=
  exec_passes rfl (waitwinTest_iff s) ⟨atPhase, window⟩

theorem exec_scanArm {s : State} (atPhase : s.scan.ph = .arm) :
    exec .scanArm s = .next ((s.withScan { s.scan with tArm := s.now }).toPhase .adv) :=
  exec_passes rfl (atPhase_iff s _) atPhase

theorem exec_scanAdv {s : State} (atPhase : s.scan.ph = .adv) :
    exec .scanAdv s = .next ((s.withScan { s.scan with g := nextLine s.scan.g }).toPhase .refresh) :=
  exec_passes rfl (atPhase_iff s _) atPhase

/-! ### The next step -/

/-- The line's emission is an operation of the scanner, and no body of the swap chain. -/
theorem pixOpOf_agent (g : GridLine) : (pixOpOf g).agent = .scan ∧ (pixOpOf g).isBody = false := by
  unfold pixOpOf
  cases classOf g <;> exact ⟨rfl, rfl⟩

theorem runTimed_one {t : Time} {i : Instr} {s u : State}
    (taken : exec i (s.withNow (max s.now t)) = .next u) : runTimed [(t, i)] s = .next u := by
  rw [runTimed_cons taken, runTimed]

/-- Settles O19, by the phase: the operation it names has a step, at an instant late enough for the
window and the separations (R118). -/
theorem scannerAlwaysHasANextStep : Obligations.ScannerAlwaysHasANextStep := by
  intro s holds emptied
  obtain ⟨-, inUse⟩ := holds
  cases atPhase : s.scan.ph
  case refresh =>
    cases pending : s.swap.pending with
    | some j => exact ⟨.scanRefresh, s.now, _, rfl, rfl, runTimed_one (exec_scanRefresh_some atPhase pending), by simp⟩
    | none => exact ⟨.scanRefresh, s.now, _, rfl, rfl, runTimed_one (exec_scanRefresh_none atPhase pending), by simp⟩
  case release =>
    refine ⟨.scanRelease, s.now, _, rfl, rfl, runTimed_one (exec_scanRelease atPhase), ?_⟩
    rw [State.withScan_scan]
    split <;> simp
  case pix =>
    obtain ⟨b, inUse⟩ := Option.ne_none_iff_exists'.1 (inUse (by simp [atPhase]) (by simp [atPhase]))
    obtain ⟨scan, noBody⟩ := pixOpOf_agent s.scan.g
    exact ⟨pixOpOf s.scan.g, s.now, _, scan, noBody, runTimed_one (exec_pixOpOf rfl atPhase inUse),
      by simp⟩
  case grid => exact ⟨.scanGrid, s.now, _, rfl, rfl, runTimed_one (exec_scanGrid atPhase), by simp⟩
  case flush =>
    obtain ⟨pixEmpty, gridEmpty⟩ := emptied atPhase
    exact ⟨.scanFlush, s.now, _, rfl, rfl, runTimed_one (exec_scanFlush atPhase pixEmpty gridEmpty), by simp⟩
  case waitwin =>
    exact ⟨.scanWaitwin, s.scan.tArm + 5000, _, rfl, rfl,
      runTimed_one (exec_scanWaitwin atPhase (le_max_right _ _)), by simp⟩
  case blankOn => exact ⟨.scanBlankOn, s.now, _, rfl, rfl, runTimed_one (exec_scanBlankOn atPhase), by simp⟩
  case latchLo =>
    exact ⟨.scanLatchLo, s.scan.tCtl + 100, _, rfl, rfl,
      runTimed_one (exec_scanLatchLo atPhase (le_max_right _ _)), by simp⟩
  case latchHi =>
    exact ⟨.scanLatchHi, s.scan.tCtl + 100, _, rfl, rfl,
      runTimed_one (exec_scanLatchHi atPhase (le_max_right _ _)), by simp⟩
  case blankOff =>
    exact ⟨.scanBlankOff, s.scan.tCtl + 100, _, rfl, rfl,
      runTimed_one (exec_scanBlankOff atPhase (le_max_right _ _)), by simp⟩
  case arm => exact ⟨.scanArm, s.now, _, rfl, rfl, runTimed_one (exec_scanArm atPhase), by simp⟩
  case adv => exact ⟨.scanAdv, s.now, _, rfl, rfl, runTimed_one (exec_scanAdv atPhase), by simp⟩

/-! ### One pass over a line -/

/-- An operation at an instant that has not passed is taken then, and the rest of the list after it. -/
theorem runTimed_cons_at {t : Time} {i : Instr} {s u : State} {rest : List (Time × Instr)} {out : Out}
    (toCome : s.now ≤ t) (taken : exec i (s.withNow t) = .next u) (ran : runTimed rest u = out) :
    runTimed ((t, i) :: rest) s = out := by
  rw [runTimed_cons (by rwa [max_eq_right toCome]), ran]

/-- From refresh to the emission of a line's bytes, from the buffer in use after the refresh: the one
that was pending, or else the one in use before (R100 to R105, R117). -/
theorem runTimed_emission {s : State} {b : Buf} {t0 : Time} (atRefresh : s.scan.ph = .refresh)
    (source : s.swap.pending = some b ∨ (s.swap.pending = none ∧ s.scan.cur = some b)) (toCome : s.now ≤ t0) :
    ∃ w : SwapChain, w.pending = none ∧ w.acq = s.swap.acq ∧
      (∀ k, BufSet.has w.free k = (BufSet.has s.swap.free k ||
        decide ((if s.swap.pending = none then s.scan.rel else s.scan.cur) = some k))) ∧
      runTimed [(t0, .scanRefresh), (t0, .scanRelease), (t0, pixOpOf s.scan.g), (t0, .scanGrid)] s = .next
        { s with
          scan := { s.scan with ph := .flush, cur := some b, rel := none }
          swap := w
          bus := { pixq := s.bus.pixq ++ pixBytes s b
                   gridq := s.bus.gridq ++ List.ofFn (gridByte s.scan.g) }
          now := t0 } := by
  rcases source with pending | ⟨nonePending, inUse⟩
  · refine ⟨({ s.swap with pending := none } : SwapChain).releaseWaiting s.scan.cur, by simp, by simp,
      fun k => by simp [releaseWaiting_free_has, pending, Bool.or_comm], ?_⟩
    refine runTimed_cons_at toCome (exec_scanRefresh_some atRefresh pending) ?_
    refine runTimed_cons_at (le_refl t0) (exec_scanRelease rfl) ?_
    refine runTimed_cons_at (le_refl t0) (exec_pixOpOf rfl rfl rfl) ?_
    exact runTimed_cons_at (le_refl t0) (exec_scanGrid rfl) rfl
  · refine ⟨s.swap.releaseWaiting s.scan.rel, by simp [nonePending], by simp,
      fun k => by simp [releaseWaiting_free_has, nonePending, Bool.or_comm], ?_⟩
    refine runTimed_cons_at toCome (exec_scanRefresh_none atRefresh nonePending) ?_
    refine runTimed_cons_at (le_refl t0) (exec_scanRelease rfl) ?_
    refine runTimed_cons_at (le_refl t0) (exec_pixOpOf rfl (by simp [inUse]) inUse) ?_
    rw [← inUse]
    exact runTimed_cons_at (le_refl t0) (exec_scanGrid rfl) rfl

/-- From the flush to the next line, with both queues empty: the four control events at their instants
(R106 to R113). -/
theorem runTimed_latching {s : State} {t0 t1 t2 t3 t4 t5 : Time} (atFlush : s.scan.ph = .flush)
    (pixEmpty : s.bus.pixq = []) (gridEmpty : s.bus.gridq = []) (toCome : s.now ≤ t0) (flushed : t0 ≤ t1)
    (window : s.scan.tArm + 5000 ≤ t1) (apart2 : t1 + 100 ≤ t2) (apart3 : t2 + 100 ≤ t3) (apart4 : t3 + 100 ≤ t4)
    (armed : t4 ≤ t5) :
    runTimed [(t0, .scanFlush), (t1, .scanWaitwin), (t1, .scanBlankOn), (t2, .scanLatchLo),
        (t3, .scanLatchHi), (t4, .scanBlankOff), (t5, .scanArm), (t5, .scanAdv)] s = .next
      { s with
        scan := { s.scan with
          ph := .refresh, g := nextLine s.scan.g, tArm := t5, tCtl := t3
          blank := #v[true, true], latch := #v[true, true] }
        now := t5
        trace := s.trace ++ [⟨t1, .pins .blank false false⟩, ⟨t2, .pins .latch false false⟩,
          ⟨t3, .pins .latch true true⟩, ⟨t4, .pins .blank true true⟩] } := by
  have from1 : t1 ≤ t2 := by linarith
  have from2 : t2 ≤ t3 := by linarith
  have from3 : t3 ≤ t4 := by linarith
  have inTurn (a b c d : TraceEntry) : s.trace ++ [a, b, c, d] = s.trace ++ [a] ++ [b] ++ [c] ++ [d] := by simp
  rw [inTurn]
  refine runTimed_cons_at toCome (exec_scanFlush atFlush pixEmpty gridEmpty) ?_
  refine runTimed_cons_at flushed (exec_scanWaitwin rfl window) ?_
  refine runTimed_cons_at (le_refl t1) (exec_scanBlankOn rfl) ?_
  refine runTimed_cons_at from1 (exec_scanLatchLo rfl apart2) ?_
  refine runTimed_cons_at from2 (exec_scanLatchHi rfl apart3) ?_
  refine runTimed_cons_at from3 (exec_scanBlankOff rfl apart4) ?_
  refine runTimed_cons_at armed (exec_scanArm rfl) ?_
  exact runTimed_cons_at (le_refl t5) (exec_scanAdv rfl) rfl

/-- The queues, with the bytes of a line in them and nothing before, are shifted out at once, the pixel
bytes first (R114). -/
theorem runTimed_delivery {s : State} {px gr : List Byte} {t : Time} (passed : t ≤ s.now)
    (queued : s.bus = { pixq := px, gridq := gr }) :
    runTimed (List.replicate px.length (t, .busDeliverPix) ++ List.replicate gr.length (t, .busDeliverGrid)) s
      = .next { s with
        bus := { pixq := [], gridq := [] }
        trace := s.trace ++ px.map (fun b => ⟨s.now, .pix b⟩) ++ gr.map (fun b => ⟨s.now, .grid b⟩) } := by
  obtain ⟨rfl, rfl⟩ : px = s.bus.pixq ∧ gr = s.bus.gridq := by simp [queued]
  rw [runTimed_append _ _ (runTimed_deliverPix s passed)]
  exact runTimed_deliverGrid { s with
    bus := { s.bus with pixq := [] }
    trace := s.trace ++ s.bus.pixq.map fun b => ⟨s.now, .pix b⟩ } passed

/-- Settles O18: the emission, the delivery and the latching of one line, one after the other (R116). -/
theorem linePassProducesItsTrace : Obligations.LinePassProducesItsTrace := by
  intro s b t0 t1 t2 t3 t4 t5 atRefresh source pixEmpty gridEmpty toCome flushed window apart2 apart3 apart4 armed
  obtain ⟨w, nonePending, acq, free, emitted⟩ := runTimed_emission atRefresh source toCome
  rw [pixEmpty, gridEmpty, List.nil_append, List.nil_append] at emitted
  have px : (pixBytes s b).length = pixCountOf s.scan.g := pixBytes_length s b
  have gr : (List.ofFn (gridByte s.scan.g)).length = 6 := List.length_ofFn
  have delivered := (runTimed_append _ _ emitted).trans (runTimed_delivery (le_refl t0) rfl)
  rw [px, gr] at delivered
  have passed := (runTimed_append _
    [(t0, .scanFlush), (t1, .scanWaitwin), (t1, .scanBlankOn), (t2, .scanLatchLo),
        (t3, .scanLatchHi), (t4, .scanBlankOff), (t5, .scanArm), (t5, .scanAdv)] delivered).trans
    (runTimed_latching rfl rfl rfl (le_refl t0) flushed window apart2 apart3 apart4 armed)
  rw [← List.append_assoc] at passed
  exact ⟨_, pixBytes s b, List.ofFn (gridByte s.scan.g), passed, pixBytes_length s b,
    fun i x off byte column => pixBytes_transform byte column, gridBytes_wire s.scan.g, rfl,
    nextLine_val s.scan.g, rfl, rfl, rfl, rfl, nonePending, acq, free, rfl, rfl, rfl, rfl⟩

end Sys2Proof.Machine
end

section
/-! PROOFS. The frame hand-off: acquire, drop and the two bodies of the scanner (41_swap_chain.md R90,
R92 to R94, R97). -/

namespace Sys2Proof.Machine

/-! ### Acquire -/

theorem exec_scAcquire_some {s : State} {pick i : Buf} (chosen : BufSet.choose s.swap.free pick = some i) :
    exec (.scAcquire pick) s = .next
      (((s.withSwap (s.swap.take i)).grantHandle i).answer (.acquired (some s.handles.length))) := by
  rw [exec, execScAcquire, chosen]

theorem exec_scAcquire_none {s : State} (noneFree : ∀ i, BufSet.has s.swap.free i = false) (pick : Buf) :
    exec (.scAcquire pick) s = .next (s.answer (.acquired none)) := by
  rw [exec, execScAcquire, choose_none.2 noneFree]

/-- With an index free a draw selects one (R90). -/
theorem exists_choose {f : BufSet} {j : Buf} (free : BufSet.has f j = true) (pick : Buf) :
    ∃ i, BufSet.choose f pick = some i := by
  refine Option.ne_none_iff_exists'.1 fun nothing => ?_
  simp [choose_none.1 nothing j] at free

/-- Settles O22, by whether an index is free; a drawn index that is free is the one taken (R90). -/
theorem acquireTakesFreeIndex : Obligations.AcquireTakesFreeIndex := by
  intro s pick
  refine ⟨fun noneFree => exec_scAcquire_none noneFree pick, ?_⟩
  rintro ⟨j, free⟩
  obtain ⟨i, chosen⟩ := exists_choose free pick
  refine ⟨i, _, exec_scAcquire_some chosen, choose_some chosen, fun drawn => ?_, fun k => ?_, fun k => ?_, rfl⟩
  · rw [choose_of_has drawn] at chosen
    exact (Option.some.inj chosen).symm
  · simp only [State.answer_swap, State.grantHandle_swap, State.withSwap_swap, take_free, has_remove]
    rw [Bool.and_comm, bne_comm]
  · simp only [State.answer_swap, State.grantHandle_swap, State.withSwap_swap, take_acq, has_add]
    rw [Bool.or_comm, Bool.beq_comm]

/-- Taking an element leaves one fewer. -/
theorem size_remove {f : BufSet} {i : Buf} (free : BufSet.has f i = true) :
    BufSet.size f = BufSet.size (BufSet.remove f i) + 1 := by
  unfold BufSet.size
  fin_cases i
  · have set : BufSet.has f 0 = true := free
    simp [set, Nat.add_comm, Nat.add_assoc]
  · have set : BufSet.has f 1 = true := free
    simp [set, Nat.add_comm, Nat.add_assoc]
  · have set : BufSet.has f 2 = true := free
    simp [set]

theorem noneFree_of_size_eq_zero {f : BufSet} (empty : BufSet.size f = 0) (i : Buf) : BufSet.has f i = false := by
  cases free : BufSet.has f i with
  | false => rfl
  | true => simp [size_remove free] at empty

theorem exists_free_of_size_pos {f : BufSet} (some_ : 0 < BufSet.size f) : ∃ i, BufSet.has f i = true := by
  by_contra noneFree
  simp only [not_exists, Bool.not_eq_true] at noneFree
  simp [BufSet.size, noneFree] at some_

/-- As many acquires in a row as indices are free all succeed: each takes one, and the handles are
numbered on (R97). -/
theorem runTimed_acquires (picks : List Buf) (s : State) (t : Time)
    (count : picks.length = BufSet.size s.swap.free) :
    ∃ u : State, runTimed (picks.map fun p => (t, .scAcquire p)) s = .next u ∧
      u.results = s.results
        ++ (List.range picks.length).map (fun k => .acquired (some (s.handles.length + k))) ∧
      (∀ i, BufSet.has u.swap.free i = false) ∧
      (∀ i, BufSet.has u.swap.acq i = (BufSet.has s.swap.acq i || BufSet.has s.swap.free i)) := by
  induction picks generalizing s with
  | nil =>
    have noneFree := noneFree_of_size_eq_zero count.symm
    exact ⟨s, rfl, by simp, noneFree, fun i => by simp [noneFree]⟩
  | cons pick picks ih =>
    obtain ⟨j, free⟩ := exists_free_of_size_pos (f := s.swap.free) (by rw [← count]; simp)
    obtain ⟨i, chosen⟩ := exists_choose free pick
    have taken := exec_scAcquire_some (s := s.withNow (max s.now t)) chosen
    have left : picks.length = BufSet.size (BufSet.remove s.swap.free i) := by
      rw [size_remove (choose_some chosen), List.length_cons] at count
      omega
    obtain ⟨u, ran, results, noneFree, acq⟩ := ih ((((s.withNow (max s.now t)).withSwap
      (s.swap.take i)).grantHandle i).answer (.acquired (some s.handles.length))) left
    refine ⟨u, ?_, ?_, noneFree, fun k => ?_⟩
    · rw [List.map_cons, runTimed, taken]
      exact ran
    · rw [results, List.length_cons, List.range_succ_eq_map]
      simp [Function.comp_def, Nat.add_assoc, Nat.add_comm 1]
    · rw [acq]
      rcases eq_or_ne i k with rfl | ne
      · simp [choose_some chosen]
      · simp [bne, beq_false_of_ne ne]

/-- Settles O27: the acquires that succeed leave nothing free, so the next one finds nothing (R97). -/
theorem freeCountBoundsAcquires : Obligations.FreeCountBoundsAcquires := by
  intro s picks pick t count
  obtain ⟨u, ran, results, noneFree, acq⟩ := runTimed_acquires picks s t count
  exact ⟨u, _, ran, results, noneFree, acq, exec_scAcquire_none noneFree pick, rfl⟩

/-! ### Drop -/

theorem exec_scDrop_of_presented {s : State} {h : Nat} {i : Buf}
    (held : s.handle? h = some { idx := i, presented := true }) : exec (.scDrop h) s = .next (s.endHandle h) := by
  calc exec (.scDrop h) s
    _ = execScDrop h s := rfl
    _ = .next (s.endHandle h) := by rw [execScDrop, held]; rfl

theorem exec_scDrop_of_unpresented {s : State} {h : Nat} {i : Buf}
    (held : s.handle? h = some { idx := i, presented := false }) :
    exec (.scDrop h) s = .next ((s.withSwap (s.swap.giveBack i)).endHandle h) := by
  calc exec (.scDrop h) s
    _ = execScDrop h s := rfl
    _ = _ := by rw [execScDrop, held]; rfl

/-- Settles O24, by the handle's mark: a presented handle leaves the swap chain alone, a live one gives
its index back (R92). -/
theorem dropEndsHandle : Obligations.DropEndsHandle := by
  intro s h i p held
  cases p with
  | true =>
    refine ⟨_, exec_scDrop_of_presented held, rfl, fun k => by simp, fun k => by simp, fun h' => ?_, rfl⟩
    rw [handle?_endHandle]
    simp only [eq_comm]
  | false =>
    refine ⟨_, exec_scDrop_of_unpresented held, rfl, fun k => ?_, fun k => ?_, fun h' => ?_, rfl⟩
    · simp [Bool.or_comm, Bool.beq_comm]
    · simp [Bool.and_comm, bne_comm]
    · rw [handle?_endHandle, handle?_withSwap]
      simp only [eq_comm]

/-! ### The scanner's two bodies -/

/-- Settles O25: the collect and its answer, as the state of the statement (R93). -/
theorem collectTakesPending : Obligations.CollectTakesPending := fun _ => rfl

/-- Settles O26: `free` gains the index alone (R94). -/
theorem releaseAddsToFree : Obligations.ReleaseAddsToFree := by
  intro s i
  refine ⟨s.withSwap (s.swap.release i), rfl, fun k => ?_, rfl⟩
  rw [State.withSwap_swap, release_free, has_add, Bool.or_comm, Bool.beq_comm]

end Sys2Proof.Machine
end

section
/-! PROOFS. Encoder capture: the flags, the transition table and one detent (43_encoder_capture.md
R120 to R127, 30_encoding.md R67). -/

namespace Sys2Proof.Machine

/-! ### The flags -/

/-- Setting a flag sets its bit alone (R120). -/
theorem setEdgeFlag_getElem (flags : BitVec 4) (k : EdgeKind) (n : Fin 4) :
    (setEdgeFlag flags k)[n.val] = (n == k.bit || flags[n.val]) := by
  have oneBit : (1#4 <<< k.bit.val)[n.val] = (n == k.bit) := by
    generalize k.bit = j
    revert n j
    decide
  rw [setEdgeFlag, BitVec.getElem_or, oneBit, Bool.or_comm]

/-- Clearing the triggering flags leaves the others (R126). -/
theorem clearTriggered_getElem (flags trig : BitVec 4) (n : Fin 4) :
    (clearTriggered flags trig)[n.val] = (flags[n.val] && !trig[n.val]) := by
  rw [clearTriggered, BitVec.getElem_and, BitVec.getElem_not]

theorem encEdge_sets_flag (s : State) (k : EdgeKind) :
    ∃ t : State, encEdge k s = .next t ∧
      (∀ n : Fin 4, t.enc.encIf[n.val] = (n == k.bit || s.enc.encIf[n.val])) ∧
      t = { s with enc := { s.enc with encIf := t.enc.encIf } } :=
  ⟨_, rfl, setEdgeFlag_getElem s.enc.encIf k, rfl⟩

/-- Settles O32: the four edges are `encEdge` of their kinds (R120). -/
theorem edgeSetsItsFlag : Obligations.EdgeSetsItsFlag := by
  intro s p listed
  simp only [List.mem_cons, List.not_mem_nil, or_false] at listed
  rcases listed with rfl | rfl | rfl | rfl
  · exact encEdge_sets_flag s .aFall
  · exact encEdge_sets_flag s .aRise
  · exact encEdge_sets_flag s .bFall
  · exact encEdge_sets_flag s .bRise

theorem exec_encEnter {s : State} (idle : s.enc.encPh = .idle) (pending : s.enc.encIf ≠ 0#4) :
    exec .encEnter s = .next s.encEntry := exec_passes rfl (enterTest_iff s) ⟨idle, pending⟩

theorem exec_encExit {s : State} (decoded : s.enc.encPh = .decoded) :
    exec .encExit s = .next s.encReturn := exec_passes rfl beq_iff_eq decoded

/-- Settles O33: the entry is the whole of `encEntry` (R121, R165). -/
theorem enterSnapshotsFlags : Obligations.EnterSnapshotsFlags := fun _ => exec_encEnter

/-- Settles O34: the return clears, bit by bit, what was triggering (R126, R167). -/
theorem exitClearsTriggeringFlags : Obligations.ExitClearsTriggeringFlags := fun s decoded =>
  ⟨_, exec_encExit decoded, clearTriggered_getElem s.enc.encIf s.enc.encTrig, rfl⟩

/-! ### The transitions -/

/-- A settled handler whose stored state is the transition's adds the table's result and stores the
sample (R122 to R125). -/
theorem encTransition_settled {s : State} {prev new : BitVec 2} (settling : s.enc.encPh = .settling)
    (settled : s.enc.tEnc + Config.encSettle ≤ s.now) (stored : s.enc.encPrev = prev) :
    encTransition prev new s = .next (s.withEnc { s.enc with
      encCount := addCount s.enc.encCount (transition prev new), encPrev := new, encPh := .decoded }) := by
  simp only [encTransition, settling, stored, settled, beq_self_eq_true, Bool.true_and, decide_true,
    whenEnabled_true]

theorem addCount_neg_one (v : Count) : addCount v (-1) = v - 1 := by
  unfold addCount
  rw [show BitVec.ofInt 32 (-1) = -1#32 by decide]
  exact (BitVec.sub_eq_add_neg v 1#32).symm

theorem addCount_zero (v : Count) : addCount v 0 = v := by
  unfold addCount
  exact BitVec.add_zero v

/-- Settles O35: the four entries of the table that are 1 (R122). -/
theorem forwardTransitionsAddOne : Obligations.ForwardTransitionsAddOne := by
  intro s settling settled p listed
  simp only [List.mem_cons, List.not_mem_nil, or_false] at listed
  rcases listed with rfl | rfl | rfl | rfl <;> intro stored <;>
    exact encTransition_settled settling settled stored

/-- Settles O36: the four entries of the table that are -1 (R123). -/
theorem reverseTransitionsSubtractOne : Obligations.ReverseTransitionsSubtractOne := by
  intro s settling settled p listed
  rw [← addCount_neg_one]
  simp only [List.mem_cons, List.not_mem_nil, or_false] at listed
  rcases listed with rfl | rfl | rfl | rfl <;> intro stored <;>
    exact encTransition_settled settling settled stored

theorem encTransition_keeps {s : State} {prev new : BitVec 2} (table : transition prev new = 0)
    (settling : s.enc.encPh = .settling) (settled : s.enc.tEnc + Config.encSettle ≤ s.now)
    (stored : s.enc.encPrev = prev) :
    encTransition prev new s = .next (s.withEnc { s.enc with encPrev := new, encPh := .decoded }) := by
  rw [encTransition_settled settling settled stored, table, addCount_zero]

/-- Settles O37: the eight entries of the table that are 0 (R124, R125). -/
theorem unchangedAndImpossibleKeepCount : Obligations.UnchangedAndImpossibleKeepCount := by
  intro s settling settled p listed
  simp only [List.mem_cons, List.not_mem_nil, or_false] at listed
  rcases listed with rfl | rfl | rfl | rfl | rfl | rfl | rfl | rfl <;> intro stored <;>
    exact encTransition_keeps (by decide) settling settled stored

/-! ### One detent -/

/-- After an edge some flag is pending. -/
theorem setEdgeFlag_ne_zero (flags : BitVec 4) (k : EdgeKind) : setEdgeFlag flags k ≠ 0#4 := by
  intro none
  have set := setEdgeFlag_getElem flags k k.bit
  rw [none, beq_self_eq_true, Bool.true_or, BitVec.getElem_zero] at set
  cases set

/-- An edge at `t` and the entry of the idle handler it triggers: all flags pending then are triggering (R120,
R121). -/
theorem runTimed_edgeEntry {s : State} {edge : Instr} {k : EdgeKind} {t : Time}
    (edgeMeans : ∀ s, exec edge s = encEdge k s) (idle : s.enc.encPh = .idle) (toCome : s.now ≤ t) :
    runTimed [(t, edge), (t, .encEnter)] s = .next { s with
      enc := { s.enc with
        encIf := setEdgeFlag s.enc.encIf k, encTrig := setEdgeFlag s.enc.encIf k, tEnc := t
        encPh := .settling }
      now := t } := by
  refine runTimed_cons_at toCome (edgeMeans _) ?_
  exact runTimed_cons_at (le_refl t) (exec_encEnter idle (setEdgeFlag_ne_zero _ k)) rfl

/-- The sample of a settled handler and its return (R122 to R126). -/
theorem runTimed_sampleExit {s : State} {sample : Instr} {prev new : BitVec 2} {t : Time}
    (sampleMeans : ∀ s, exec sample s = encTransition prev new s) (settling : s.enc.encPh = .settling)
    (stored : s.enc.encPrev = prev) (settled : s.enc.tEnc + Config.encSettle ≤ t) (toCome : s.now ≤ t) :
    runTimed [(t, sample), (t, .encExit)] s = .next { s with
      enc := { s.enc with
        encCount := addCount s.enc.encCount (transition prev new), encPrev := new
        encIf := clearTriggered s.enc.encIf s.enc.encTrig, encPh := .idle }
      now := t } := by
  have taken := (sampleMeans (s.withNow t)).trans (encTransition_settled settling settled stored)
  refine runTimed_cons_at toCome taken ?_
  exact runTimed_cons_at (le_refl t) (exec_encExit rfl) rfl

/-- The operations are an edge and the sample of the transition from `prev` to `new`. -/
def IsHandlerRun (edge sample : Instr) (prev new : BitVec 2) : Prop :=
  (∃ k, ∀ s, exec edge s = encEdge k s) ∧ ∀ s, exec sample s = encTransition prev new s

/-- The operations lead from `s` to an idle handler with no flag pending, at instant `t`, with `prev`
stored and `d` added to the count, and change nothing else. -/
def RunsAdding (s : State) (ops : List (Time × Instr)) (prev : BitVec 2) (d : Count) (t : Time) : Prop :=
  ∃ u, runTimed ops s = .next u ∧ u.enc.encCount = s.enc.encCount + d ∧ u.enc.encPrev = prev ∧
    u.enc.encPh = .idle ∧ u.enc.encIf = 0#4 ∧ u = { s with enc := u.enc, now := t }

/-- One handler run from an idle handler adds the table's result (R120 to R126). -/
theorem runsAdding_handlerRun {s : State} {edge sample : Instr} {prev new : BitVec 2} {t : Time}
    (run : IsHandlerRun edge sample prev new) (idle : s.enc.encPh = .idle) (stored : s.enc.encPrev = prev)
    (toCome : s.now ≤ t) :
    RunsAdding s (handlerRun edge sample t) new (BitVec.ofInt 32 (transition prev new))
      (t + Config.encSettle) := by
  obtain ⟨⟨k, edgeMeans⟩, sampleMeans⟩ := run
  have settle : t ≤ t + Config.encSettle := le_add_of_nonneg_right encSettle_pos.le
  have entered := runTimed_append _ [(t + Config.encSettle, sample), (t + Config.encSettle, .encExit)]
    (runTimed_edgeEntry edgeMeans idle toCome)
  have ran := entered.trans (runTimed_sampleExit sampleMeans rfl stored (le_refl _) settle)
  exact ⟨_, ran, rfl, rfl, rfl, BitVec.and_not_self _, rfl⟩

/-- One more handler run, after the last has ended, adds its own result. -/
theorem RunsAdding.append {s : State} {ops : List (Time × Instr)} {edge sample : Instr} {prev new : BitVec 2}
    {d : Count} {t t' : Time} (before : RunsAdding s ops prev d t) (run : IsHandlerRun edge sample prev new)
    (ended : t ≤ t') :
    RunsAdding s (ops ++ handlerRun edge sample t') new (d + BitVec.ofInt 32 (transition prev new))
      (t' + Config.encSettle) := by
  obtain ⟨u, ran, count, stored, idle, -, kept⟩ := before
  have toCome : u.now ≤ t' := by rw [kept]; exact ended
  obtain ⟨v, ran', count', stored', idle', served, kept'⟩ := runsAdding_handlerRun run idle stored toCome
  refine ⟨v, (runTimed_append _ _ ran).trans ran', ?_, stored', idle', served, ?_⟩
  · rw [count', count, BitVec.add_assoc]
  · rw [kept', kept]

/-- Settles O38: four runs, with the table's results 1, 1, 1, 1 or -1, -1, -1, -1 (R127). -/
theorem detentIsFourCounts : Obligations.DetentIsFourCounts := by
  intro s t1 t2 t3 t4 idle stored toCome end1 end2 end3
  constructor
  · have first : IsHandlerRun .encEdgeBRise .encTInc0001 0b00#2 0b01#2 := ⟨⟨.bRise, fun _ => rfl⟩, fun _ => rfl⟩
    have second : IsHandlerRun .encEdgeARise .encTInc0111 0b01#2 0b11#2 := ⟨⟨.aRise, fun _ => rfl⟩, fun _ => rfl⟩
    have third : IsHandlerRun .encEdgeBFall .encTInc1110 0b11#2 0b10#2 := ⟨⟨.bFall, fun _ => rfl⟩, fun _ => rfl⟩
    have fourth : IsHandlerRun .encEdgeAFall .encTInc1000 0b10#2 0b00#2 := ⟨⟨.aFall, fun _ => rfl⟩, fun _ => rfl⟩
    have ran := (((runsAdding_handlerRun first idle stored toCome).append second end1).append third end2).append
      fourth end3
    have total : BitVec.ofInt 32 (transition 0b00#2 0b01#2) + BitVec.ofInt 32 (transition 0b01#2 0b11#2)
        + BitVec.ofInt 32 (transition 0b11#2 0b10#2) + BitVec.ofInt 32 (transition 0b10#2 0b00#2) = 4#32 := by decide
    rw [total] at ran
    exact ran
  · have first : IsHandlerRun .encEdgeARise .encTDec0010 0b00#2 0b10#2 := ⟨⟨.aRise, fun _ => rfl⟩, fun _ => rfl⟩
    have second : IsHandlerRun .encEdgeBRise .encTDec1011 0b10#2 0b11#2 := ⟨⟨.bRise, fun _ => rfl⟩, fun _ => rfl⟩
    have third : IsHandlerRun .encEdgeAFall .encTDec1101 0b11#2 0b01#2 := ⟨⟨.aFall, fun _ => rfl⟩, fun _ => rfl⟩
    have fourth : IsHandlerRun .encEdgeBFall .encTDec0100 0b01#2 0b00#2 := ⟨⟨.bFall, fun _ => rfl⟩, fun _ => rfl⟩
    rw [BitVec.sub_eq_add_neg]
    have ran := (((runsAdding_handlerRun first idle stored toCome).append second end1).append third end2).append
      fourth end3
    have total : BitVec.ofInt 32 (transition 0b00#2 0b10#2) + BitVec.ofInt 32 (transition 0b10#2 0b11#2)
        + BitVec.ofInt 32 (transition 0b11#2 0b01#2) + BitVec.ofInt 32 (transition 0b01#2 0b00#2) = -4#32 := by decide
    rw [total] at ran
    exact ran

end Sys2Proof.Machine
end

section
/-! PROOFS. Button capture: the timer, the two columns and the column invariant (44_button_capture.md
R135 to R137, 30_encoding.md R68). -/

namespace Sys2Proof.Machine

/-- Settles O39: the timer's test is that the deadline has come and the flag is clear (R135). -/
theorem timerFiresAtDeadline : Obligations.TimerFiresAtDeadline := fun s due clear =>
  exec_passes rfl (timerExpired_iff s.btn s.now) ⟨due, clear⟩

theorem storeRows_zero (raw : Vector Level 4) (r0 r1 : Level) :
    storeRows raw 0 r0 r1 = #v[r0, r1, raw[2], raw[3]] := by
  ext i hi
  interval_cases i <;> simp [storeRows, slotOf]

theorem storeRows_one (raw : Vector Level 4) (r0 r1 : Level) :
    storeRows raw 1 r0 r1 = #v[raw[0], raw[1], r0, r1] := by
  ext i hi
  interval_cases i <;> simp [storeRows, slotOf]

theorem switchColumn_zero (lines : Vector Level 2) : switchColumn lines 0 = #v[false, true] := by
  ext i hi
  interval_cases i <;> simp [switchColumn, otherCol]

theorem switchColumn_one (lines : Vector Level 2) : switchColumn lines 1 = #v[true, false] := by
  ext i hi
  interval_cases i <;> simp [switchColumn, otherCol]

/-- The handler of a pending firing of its column (R136). -/
theorem scanColumn_pending {s : State} {col : Fin 2} (pending : s.btn.btnIf = true) (active : s.btn.btnCol = col)
    (r0 r1 : Level) :
    scanColumn col r0 r1 s = .next { s with
      btn := { btnCol := otherCol col, btnRaw := storeRows s.btn.btnRaw col r0 r1
               colSel := switchColumn s.btn.colSel col, btnIf := false
               btnDeadline := s.now + Config.tBtn }
      trace := s.trace ++ [⟨s.now, .pins .colSel (switchColumn s.btn.colSel col)[0]
        (switchColumn s.btn.colSel col)[1]⟩] } := by
  have enabled := (columnTest_iff s col).2 ⟨pending, active⟩
  simp only [scanColumn, enabled, whenEnabled_true]
  rfl

/-- Settles O40, by the column: its two slots, and the select lines with it low (R136, R68). -/
theorem buttonScanServesColumn : Obligations.ButtonScanServesColumn := by
  intro s r0 r1 pending
  refine ⟨fun active => ?_, fun active => ?_⟩
  · have served := scanColumn_pending pending active r0 r1
    rw [storeRows_zero, switchColumn_zero] at served
    exact served
  · have served := scanColumn_pending pending active r0 r1
    rw [storeRows_one, switchColumn_one] at served
    exact served

/-! ### The selected column -/

/-- After the switch the other column is the one selected (R136). -/
theorem switchColumn_selects (lines : Vector Level 2) (col : Fin 2) :
    (switchColumn lines col)[otherCol col] = true ∧ (switchColumn lines col)[col] = false := by
  fin_cases col
  · simp [switchColumn_zero, otherCol]
  · simp [switchColumn_one, otherCol]

theorem oneColumnSelected_congr {s t : State} (selected : s.OneColumnSelected)
    (lines : t.btn.colSel = s.btn.colSel) (col : t.btn.btnCol = s.btn.btnCol) : t.OneColumnSelected := by
  simpa only [State.OneColumnSelected, lines, col] using selected

theorem InputEffect.oneColumnSelected {s t : State} {i : Instr} (eff : InputEffect s i t)
    (selected : s.OneColumnSelected) : t.OneColumnSelected := by
  cases eff
  case scan r0 r1 _ _ =>
    obtain ⟨low, high⟩ := switchColumn_selects s.btn.colSel s.btn.btnCol
    refine ⟨low, ?_⟩
    simpa using high
  all_goals exact oneColumnSelected_congr selected rfl rfl

/-- Settles O41, by the effect of the operation taken: the button handler alone moves the select lines. -/
theorem stepKeepsOneColumnSelected : Obligations.StepKeepsOneColumnSelected := fun s t =>
  step_keeps (fun _ _ _ selected => oneColumnSelected_congr selected rfl rfl)
    (fun eff selected => oneColumnSelected_congr selected (by cases eff <;> rfl) (by cases eff <;> rfl))
    InputEffect.oneColumnSelected
    (fun eff selected => oneColumnSelected_congr selected (by cases eff <;> rfl) (by cases eff <;> rfl)) s t

end Sys2Proof.Machine
end

section
/-! PROOFS. The frame store: the coordinate map, the accessors through a live handle, and the canonical
form (20_memory.md R57, 40_frame_store_ops.md R80 to R86). -/

namespace Sys2Proof.Machine

/-! ### The coordinate map -/

/-- The permutation as the list of the spec (R57). -/
theorem perm_eq_list (r : Fin 6) : (Config.perm[r]).val = ([0, 2, 4, 5, 3, 1] : List Nat)[r.val]! := by
  revert r
  decide

theorem groupBit_eq (x : Fin 132) (y : Fin 64) :
    groupBit x y = 6 * y.val + ([0, 2, 4, 5, 3, 1] : List Nat)[x.val % 6]! := by
  rw [← perm_eq_list ⟨x.val % 6, Nat.mod_lt _ (by decide)⟩]
  rfl

/-- No two pixels of a group of six share a position, and every position has its pixel. -/
theorem perm_bijective : Function.Bijective fun r : Fin 6 => Config.perm[r] := by decide

/-- Offset and bit tell the column group and the bit within it (R57). -/
theorem group_eq_of_address_eq {x x' : Fin 132} {y y' : Fin 64} (offset : pixelOffset x y = pixelOffset x' y')
    (bit : pixelBit x y = pixelBit x' y') : x.val / 6 = x'.val / 6 ∧ groupBit x y = groupBit x' y' := by
  have offset := congrArg Fin.val offset
  have bit := congrArg Fin.val bit
  have := groupBit_lt x y
  have := groupBit_lt x' y'
  simp only [pixelOffset_val, pixelBit_val] at offset bit
  omega

/-- Two pixels with one address are the same (R57). -/
theorem pixel_eq_of_address_eq {x x' : Fin 132} {y y' : Fin 64} (offset : pixelOffset x y = pixelOffset x' y')
    (bit : pixelBit x y = pixelBit x' y') : x = x' ∧ y = y' := by
  obtain ⟨group, within⟩ := group_eq_of_address_eq offset bit
  have p := (Config.perm[x.val % 6]'(by omega)).isLt
  have p' := (Config.perm[x'.val % 6]'(by omega)).isLt
  unfold groupBit at within
  have place : Config.perm[x.val % 6]'(by omega) = Config.perm[x'.val % 6]'(by omega) := Fin.ext (by omega)
  have column : x.val % 6 = x'.val % 6 :=
    congrArg Fin.val (perm_bijective.1 (a₁ := ⟨x.val % 6, by omega⟩) (a₂ := ⟨x'.val % 6, by omega⟩) place)
  exact ⟨Fin.ext (by omega), Fin.ext (by omega)⟩

/-- Every bit of a column group is a pixel's of that group (R57). -/
theorem exists_pixel_in_group (group : Fin 22) (n : Fin 384) :
    ∃ (x : Fin 132) (y : Fin 64), x.val / 6 = group.val ∧ groupBit x y = n.val := by
  obtain ⟨r, place⟩ := perm_bijective.2 ⟨n.val % 6, Nat.mod_lt _ (by decide)⟩
  have placed : (Config.perm[r.val]).val = n.val % 6 := congrArg Fin.val place
  have column : (6 * group.val + r.val) % 6 = r.val := by omega
  refine ⟨⟨6 * group.val + r.val, by omega⟩, ⟨n.val / 6, by omega⟩, by simp only; omega, ?_⟩
  unfold groupBit
  simp only [column, placed]
  omega

/-- Every bit of a buffer is a pixel's (R57). -/
theorem exists_pixel_at (off : Offset) (bit : Fin 8) :
    ∃ (x : Fin 132) (y : Fin 64), pixelOffset x y = off ∧ pixelBit x y = bit := by
  obtain ⟨x, y, inGroup, position⟩ :=
    exists_pixel_in_group ⟨off.val / 48, by omega⟩ ⟨off.val % 48 * 8 + bit.val, by omega⟩
  refine ⟨x, y, Fin.ext ?_, Fin.ext ?_⟩
  · rw [pixelOffset_val, inGroup, position]
    simp only
    omega
  · rw [pixelBit_val, position]
    simp only
    omega

/-- Settles O42: the formula, and its two halves of being one to one. -/
theorem coordinateMapIsBijective : Obligations.CoordinateMapIsBijective := by
  refine ⟨fun x y => ?_, fun _ _ _ _ offset bit => pixel_eq_of_address_eq offset bit, exists_pixel_at⟩
  rw [pixelOffset_val, pixelBit_val, groupBit_eq]
  exact ⟨rfl, rfl⟩

/-! ### The raw accessors -/

theorem exec_fbGetRaw_live {s : State} {h : Nat} {b : Buf} (live : s.Live h b) (x y : Int) :
    exec (.fbGetRaw h x y) s = rawGet b x y s := by
  obtain ⟨held, acquired⟩ := live
  calc exec (.fbGetRaw h x y) s
    _ = withLiveHandle h s (fun b => rawGet b x y s) := rfl
    _ = _ := withLiveHandle_live _ held acquired

theorem exec_fbGet_live {s : State} {h : Nat} {b : Buf} (live : s.Live h b) (x y : Int) :
    exec (.fbGet h x y) s = if inLogicalArea x y then rawGet b x y s else .next (s.answer (.pixel false)) := by
  obtain ⟨held, acquired⟩ := live
  calc exec (.fbGet h x y) s
    _ = withLiveHandle h s
        (fun b => if inLogicalArea x y then rawGet b x y s else .next (s.answer (.pixel false))) := rfl
    _ = _ := withLiveHandle_live _ held acquired

theorem rawGet_of_some {x y : Int} {p : Fin 132 × Fin 64} (inRaw : rawCoord? x y = some p)
    (b : Buf) (s : State) : rawGet b x y s = .next (s.answer (.pixel (s.readPixel b p.1 p.2))) := by
  unfold rawGet
  rw [inRaw]

theorem rawSet_of_outside {x y : Int} (outside : ¬ ((0 ≤ x ∧ x < 132) ∧ (0 ≤ y ∧ y < 64)))
    (b : Buf) (c : Bool) (s : State) : rawSet b x y c s = .refused .rawOutOfRange := by
  unfold rawSet
  rw [rawCoord?_none.2 outside]

theorem rawGet_of_outside {x y : Int} (outside : ¬ ((0 ≤ x ∧ x < 132) ∧ (0 ≤ y ∧ y < 64)))
    (b : Buf) (s : State) : rawGet b x y s = .refused .rawOutOfRange := by
  unfold rawGet
  rw [rawCoord?_none.2 outside]

/-- A pixel write makes one bit of one byte the colour (R82). -/
theorem readByte_writePixel_getElem (s : State) (b : Buf) (x : Fin 132) (y : Fin 64) (c : Bool) (b' : Buf)
    (off : Offset) (bit : Fin 8) :
    ((s.writePixel b x y c).readByte b' off)[bit.val] =
      if b' = b ∧ off = pixelOffset x y ∧ bit = pixelBit x y then c else (s.readByte b' off)[bit.val] := by
  rw [readByte_writePixel]
  by_cases byte : b = b' ∧ pixelOffset x y = off
  · obtain ⟨rfl, rfl⟩ := byte
    rw [if_pos ⟨rfl, rfl⟩, withBit_getElem]
    simp
  · rw [if_neg byte, if_neg]
    rintro ⟨rfl, rfl, -⟩
    exact byte ⟨rfl, rfl⟩

/-- Settles O45, by the two sides of the raw range (R82). -/
theorem setRawChangesOneBit : Obligations.SetRawChangesOneBit := by
  intro s h b c live
  simp only [exec_fbSetRaw_live live]
  refine ⟨fun x y => ?_, fun x y outside => rawSet_of_outside outside b c s⟩
  exact ⟨_, rawSet_of_some (rawCoord?_of_fin x y) b c s, rfl, readByte_writePixel_getElem s b x y c⟩

/-- Settles O46, by the two sides of the raw range (R83). -/
theorem getRawReadsOneBit : Obligations.GetRawReadsOneBit := by
  intro s h b live
  simp only [exec_fbGetRaw_live live]
  exact ⟨fun x y => rawGet_of_some (rawCoord?_of_fin x y) b s, fun x y outside => rawGet_of_outside outside b s⟩

/-- Settles O44, by the two sides of the bounds check (R81). -/
theorem getChecksBoundsThenDelegates : Obligations.GetChecksBoundsThenDelegates := by
  intro s h b x y live
  rw [exec_fbGet_live live, exec_fbGetRaw_live live, ← inLogicalArea_iff]
  refine ⟨fun inside => ?_, fun outside => if_neg outside⟩
  obtain ⟨p, inRaw⟩ := rawCoord?_of_logical inside
  rw [if_pos inside]
  exact ⟨rfl, _, rawGet_of_some inRaw b s⟩

/-! ### Clear -/

theorem exec_fbClear_live {s : State} {h : Nat} {b : Buf} (live : s.Live h b) (c : Bool) :
    exec (.fbClear h c) s = .next (s.fillBuffer b (fillByte c)) := by
  obtain ⟨held, acquired⟩ := live
  calc exec (.fbClear h c) s
    _ = withLiveHandle h s (fun b => .next (s.fillBuffer b (fillByte c))) := rfl
    _ = _ := withLiveHandle_live _ held acquired

/-- Settles O47: the 1056 writes fill the buffer with `fillByte` and reach no other (R84). -/
theorem clearFillsWholeBuffer : Obligations.ClearFillsWholeBuffer := by
  intro s h b c live
  refine ⟨_, exec_fbClear_live live c, rfl, fun b' off => ?_⟩
  rw [readByte_fillBuffer]
  simp only [eq_comm (a := b), fillByte]

/-! ### The round trip -/

/-- A pixel reads as it was written, and every other pixel as before: no two share a bit (R86 a). -/
theorem readPixel_writePixel (s : State) (b : Buf) (x x' : Fin 132) (y y' : Fin 64) (c : Bool) :
    (s.writePixel b x y c).readPixel b x' y' = if x' = x ∧ y' = y then c else s.readPixel b x' y' := by
  have sameAddress : (pixelOffset x' y' = pixelOffset x y ∧ pixelBit x' y' = pixelBit x y) ↔ x' = x ∧ y' = y :=
    ⟨fun e => pixel_eq_of_address_eq e.1 e.2, by rintro ⟨rfl, rfl⟩; exact ⟨rfl, rfl⟩⟩
  rw [State.readPixel, readByte_writePixel_getElem]
  simp only [true_and, sameAddress, State.readPixel]

theorem inLogicalArea_of_fin (x : Fin 128) (y : Fin 64) : inLogicalArea (x.val : Int) (y.val : Int) = true := by
  rw [inLogicalArea_iff]
  omega

/-- A logical coordinate is a raw one, in the same place. -/
theorem rawCoord?_of_logical_fin (x : Fin 128) (y : Fin 64) :
    rawCoord? (x.val : Int) (y.val : Int) = some (x.castLE (by decide), y) := rawCoord?_of_fin (x.castLE (by decide)) y

theorem exec_fbGet_logical {s : State} {h : Nat} {b : Buf} (live : s.Live h b) (x : Fin 128) (y : Fin 64) :
    exec (.fbGet h (x.val : Int) (y.val : Int)) s
      = .next (s.answer (.pixel (s.readPixel b (x.castLE (by decide)) y))) := by
  rw [exec_fbGet_live live, if_pos (inLogicalArea_of_fin x y), rawGet_of_some (rawCoord?_of_logical_fin x y)]

theorem exec_fbSet_logical {s : State} {h : Nat} {b : Buf} (live : s.Live h b) (x : Fin 128) (y : Fin 64)
    (c : Bool) :
    exec (.fbSet h (x.val : Int) (y.val : Int) c) s = .next (s.writePixel b (x.castLE (by decide)) y c) := by
  rw [exec_fbSet_live live, if_pos (inLogicalArea_of_fin x y), rawSet_of_some (rawCoord?_of_logical_fin x y)]

/-- Settles O48: the handle stays live over the write, and the read after it is `readPixel_writePixel`. -/
theorem setThenGetRoundTrip : Obligations.SetThenGetRoundTrip := by
  intro s h b x x' y y' c live
  have stillLive : (s.writePixel b (x.castLE (by decide)) y c).Live h b := live
  refine ⟨_, _, exec_fbSet_logical live x y c, exec_fbGet_logical live x' y', ?_⟩
  rw [exec_fbGet_logical stillLive, readPixel_writePixel]
  simp only [Fin.castLE_inj]
  rfl

/-! ### The canonical form -/

theorem HostEffect.fs_wf {s t : State} {i : Instr} (eff : HostEffect s i t) (wf : Memory.wf s.fs = true) :
    Memory.wf t.fs = true := by
  cases eff
  case pixel h b x y c _ _ => exact writePixel_wf s b x y c wf
  case clear h b c _ _ => exact fillBuffer_wf s b (fillByte c) wf
  all_goals exact wf

/-- Settles O49, by the effect of the operation taken: the host alone writes cells. -/
theorem stepKeepsFrameStoreForm : Obligations.StepKeepsFrameStoreForm :=
  step_keeps (P := fun s => Memory.wf s.fs = true) (fun _ _ _ wf => wf)
    (fun eff wf => by cases eff <;> exact wf) (fun eff wf => by cases eff <;> exact wf) HostEffect.fs_wf

end Sys2Proof.Machine
end

section
/-! PROOFS. The input aggregator: its loads, its report and the wrap-tolerant difference
(45_input_aggregator.md R145 to R150). -/

namespace Sys2Proof.Machine

/-! ### The wrap-tolerant difference -/

/-- The wrap-tolerant difference of two 32-bit values is their difference modulo `2^32` of least
magnitude: the plain one in range, else the one an interval of `2^32` away (R149). -/
theorem wdelta_eq_bmod {prev new : Int} (low : -2 ^ 32 < new - prev) (high : new - prev < 2 ^ 32) :
    wdelta prev new = (new - prev).bmod (2 ^ 32) := by
  unfold wdelta
  simp only [Int.bmod_def]
  generalize new - prev = d at low high
  rcases lt_trichotomy d 0 with neg | rfl | pos
  · have notZero : ¬ d = 0 := by omega
    have notPos : ¬ 0 < d := by omega
    have wrapped : d % ((2 ^ 32 : Nat) : Int) = d + 2 ^ 32 := by omega
    simp only [notZero, notPos, if_false, wrapped]
    split_ifs <;> omega
  · rfl
  · have notZero : ¬ d = 0 := by omega
    have kept : d % ((2 ^ 32 : Nat) : Int) = d := by omega
    simp only [notZero, pos, if_false, if_true, kept]
    split_ifs <;> omega

/-- Settles O52: two signed values lie less than `2^32` apart (R149). -/
theorem wrapTolerantDifferenceIsWrap32 : Obligations.WrapTolerantDifferenceIsWrap32 := by
  intro prev new
  have prevLow := BitVec.le_toInt prev
  have prevHigh := BitVec.toInt_lt (x := prev)
  have newLow := BitVec.le_toInt new
  have newHigh := BitVec.toInt_lt (x := new)
  rw [BitVec.toInt_ofInt]
  exact wdelta_eq_bmod (by omega) (by omega)

/-- Settles O53: detent counts lie less than `2^30` apart, so the plain difference is the smaller (R150). -/
theorem detentDifferenceIsPlain : Obligations.DetentDifferenceIsPlain := by
  intro c c'
  obtain ⟨low, high⟩ := detents_range c
  obtain ⟨low', high'⟩ := detents_range c'
  rw [wdelta_eq_bmod (by omega) (by omega)]
  exact Int.bmod_eq_of_le (by omega) (by omega)

/-! ### The loads -/

theorem afterSlot_code (k : Fin 4) : (afterSlot k).code = (AggPhase.btn k).code + 1 := by
  revert k
  decide

/-- Settles O50: one value is loaded, and the run's position moves on (R145, R146). -/
theorem aggregatorLoadsOneValue : Obligations.AggregatorLoadsOneValue := by
  intro s
  refine ⟨fun position => ?_, fun k position => ?_⟩
  · rw [exec, execAggEnc, position]
    rfl
  · refine ⟨s.withAgg { s.agg with
      aggTLvl := s.agg.aggTLvl.set k.val s.btn.btnRaw[k], aggPh := afterSlot k }, ?_, fun j => ?_, ?_, rfl⟩
    · rw [exec, execAggBtn, position]
    · simp only [State.withAgg_agg, Fin.getElem_fin, Vector.getElem_set, Fin.ext_iff, eq_comm (a := k.val)]
    · rw [State.withAgg_agg, position]
      exact afterSlot_code k

/-! ### The report -/

theorem inputState_ofButton (det delta : Int) (lvl prev : Vector Level 4) (button : Fin 4) :
    (inputState det delta lvl prev).ofButton button
      = buttonState lvl[slotOfButton button] prev[slotOfButton button] := by
  fin_cases button <;> rfl

/-- A detent count fits its 32 bits (R148). -/
theorem toInt_ofInt_detents (c : Count) : (BitVec.ofInt 32 (detents c)).toInt = detents c := by
  obtain ⟨low, high⟩ := detents_range c
  rw [BitVec.toInt_ofInt]
  exact Int.bmod_eq_of_le (by omega) (by omega)

/-- The reported delta is the difference of the reported counts modulo `2^32` (R149). -/
theorem ofInt_wdelta (prev : Count) (c : Count) :
    BitVec.ofInt 32 (wdelta prev.toInt (detents c)) = BitVec.ofInt 32 (detents c) - prev := by
  apply BitVec.eq_of_toInt_eq
  have fits := wrapTolerantDifferenceIsWrap32 prev (BitVec.ofInt 32 (detents c))
  rw [toInt_ofInt_detents] at fits
  rw [fits, BitVec.ofInt_toInt, BitVec.toInt_sub, toInt_ofInt_detents, BitVec.toInt_ofInt]

/-- Settles O51: the report is `inputState` of the loaded count and levels (R147 to R149). -/
theorem updateReportsDetentsAndEdges : Obligations.UpdateReportsDetentsAndEdges := by
  intro s position
  refine ⟨_, inputState (detents s.agg.aggTCount) (wdelta s.agg.aggPrevDetent.toInt (detents s.agg.aggTCount))
    s.agg.aggTLvl s.agg.aggPrevBtn, ?_, toInt_ofInt_detents _, ofInt_wdelta _ _, fun k => ?_, rfl⟩
  · rw [exec, execAggUpdate, position]
    rfl
  · have slot : slotOfButton (Config.buttonMap k) = k := Config.buttonMap.symm_apply_apply k
    simp only [inputState_ofButton, slot]
    rfl

end Sys2Proof.Machine
end

section
/-! PROOFS. The agents and their state, the two handlers in either order, and the state after reset
(60_exceptions.md R164, R169, 10_state.md R36). -/

namespace Sys2Proof.Machine

/-! ### The access table -/

/-- What an agent may make of `s`: its row of the access table (R169). -/
def WritesOwnState (s t : State) : Agent → Prop
  | .scan => t = { s with
      scan := t.scan, bus := t.bus, trace := t.trace, results := t.results
      swap := { s.swap with free := t.swap.free, pending := t.swap.pending } }
  | .enc => t = { s with enc := t.enc } ∧ ∀ k : Fin 4, t.enc.encIf[k.val] = true → s.enc.encIf[k.val] = true
  | .btn => t = { s with btn := t.btn, trace := t.trace }
  | .host => t = { s with
      swap := t.swap, fs := t.fs, agg := t.agg, handles := t.handles, results := t.results }
  | .env => t = { s with
      bus := t.bus, trace := t.trace
      enc := { s.enc with encIf := t.enc.encIf }, btn := { s.btn with btnIf := t.btn.btnIf } }

theorem writesOwnState_self (s : State) (a : Agent) : WritesOwnState s s a := by
  cases a
  case enc => exact ⟨rfl, fun _ set => set⟩
  all_goals rfl

theorem ScanEffect.writesOwnState {s t : State} {i : Instr} (eff : ScanEffect s i t) :
    WritesOwnState s t i.agent := by
  cases eff
  all_goals rfl

/-- The handler of the encoder changes flags only by clearing the triggering ones (R126). -/
theorem InputEffect.writesOwnState {s t : State} {i : Instr} (eff : InputEffect s i t) :
    WritesOwnState s t i.agent := by
  cases eff
  case sample ofEnc _ _ =>
    rw [ofEnc]
    exact ⟨rfl, fun _ set => set⟩
  case enter means _ _ =>
    rw [means]
    exact ⟨rfl, fun _ set => set⟩
  case exit means _ =>
    rw [means]
    refine ⟨rfl, fun k set => ?_⟩
    have cleared := clearTriggered_getElem s.enc.encIf s.enc.encTrig k
    simp only [State.encReturn_enc] at set
    rw [cleared, Bool.and_eq_true] at set
    exact set.1
  case edge ofEnv =>
    rw [ofEnv]
    rfl
  case fire means _ =>
    rw [means]
    rfl
  case scan ofBtn _ =>
    rw [ofBtn]
    rfl

theorem HostEffect.writesOwnState {s t : State} {i : Instr} (eff : HostEffect s i t) :
    WritesOwnState s t .host := by
  cases eff
  all_goals rfl

theorem exec_writesOwnState {i : Instr} {s t : State} (taken : exec i s = .next t) :
    WritesOwnState s t i.agent := by
  rcases exec_next taken with rfl | eff | eff | ⟨ofHost, eff⟩
  · exact writesOwnState_self _ _
  · exact eff.writesOwnState
  · exact eff.writesOwnState
  · rw [ofHost]
    exact eff.writesOwnState

/-- Settles O54: the row of each agent (R169). -/
theorem agentsWriteOnlyTheirOwnState : Obligations.AgentsWriteOnlyTheirOwnState := by
  intro i s t taken
  have own := exec_writesOwnState taken
  refine ⟨fun ofAgent => ?_, fun ofAgent => ?_, fun ofAgent => ?_, fun ofAgent => ?_, fun ofAgent => ?_⟩ <;>
    rw [ofAgent] at own <;> exact own

/-! ### The two handlers -/

/-- A change that an operation's test does not see and that its effect carries along. -/
theorem whenEnabled_map (change : State → State) {c : Bool} {s t u : State} (taken : whenEnabled c s t = .next u) :
    whenEnabled c (change s) (change t) = .next (change u) := by
  rcases whenEnabled_next taken with ⟨rfl, rfl⟩ | ⟨rfl, rfl⟩ <;> rfl

/-- The encoder handler neither reads nor writes the buttons and the trace (R164). -/
theorem exec_enc_frame {i : Instr} {s t : State} (ofEnc : i.agent = .enc) (taken : exec i s = .next t)
    (b : Buttons) (trace : List TraceEntry) :
    exec i { s with btn := b, trace := trace } = .next { t with btn := b, trace := trace } := by
  cases i <;> cases ofEnc
  all_goals exact whenEnabled_map (fun s => { s with btn := b, trace := trace }) taken

/-- The button handler neither reads nor writes the encoder's registers (R164). -/
theorem exec_btn_frame {i : Instr} {s t : State} (ofBtn : i.agent = .btn) (taken : exec i s = .next t)
    (e : Encoder) : exec i { s with enc := e } = .next { t with enc := e } := by
  cases i <;> cases ofBtn
  all_goals exact whenEnabled_map (fun s => { s with enc := e }) taken

/-- Settles O55: each handler is carried along the other's change (R164). -/
theorem handlersCommute : Obligations.HandlersCommute := by
  rintro i j s t u (⟨ofEnc, ofBtn⟩ | ⟨ofBtn, ofEnc⟩) first second
  · have own := exec_writesOwnState first
    have own' := exec_writesOwnState second
    rw [ofEnc] at own
    rw [ofBtn] at own'
    obtain ⟨own, -⟩ := own
    have before : { t with enc := s.enc } = s := by rw [own]
    have after : { t with btn := u.btn, trace := u.trace } = u := own'.symm
    refine ⟨{ u with enc := s.enc }, before ▸ exec_btn_frame ofBtn second s.enc, ?_⟩
    have same : ({ u with enc := s.enc } : State) = { s with btn := u.btn, trace := u.trace } := by
      rw [own', own]
    rw [same, exec_enc_frame ofEnc first, after]
  · have own := exec_writesOwnState first
    have own' := exec_writesOwnState second
    rw [ofBtn] at own
    rw [ofEnc] at own'
    obtain ⟨own', -⟩ := own'
    have before : { t with btn := s.btn, trace := s.trace } = s := by rw [own]
    have after : { t with enc := u.enc } = u := own'.symm
    refine ⟨{ u with btn := s.btn, trace := s.trace },
      before ▸ exec_enc_frame ofEnc second s.btn s.trace, ?_⟩
    have same : ({ u with btn := s.btn, trace := s.trace } : State) = { s with enc := u.enc } := by
      rw [own', own]
    rw [same, exec_btn_frame ofBtn first, after]

/-! ### The state after reset -/

theorem reset_controlSafe : State.reset.ControlSafe := by
  refine ⟨⟨rfl, ?_⟩, ?_, le_refl _, ⟨le_refl _, le_refl _⟩, ⟨le_refl _, le_refl _⟩, ⟨le_refl _, le_refl _⟩⟩
  · rintro e isFirst
    cases isFirst
  · rintro e isLast
    cases isLast

/-- Settles O59: the four invariants of the claims about every step, and the empty store. -/
theorem resetHasEveryInvariant : Obligations.ResetHasEveryInvariant :=
  ⟨reset_ownership, ⟨rfl, rfl⟩, ⟨fun _ _ => rfl, fun _ => rfl⟩, reset_controlSafe, rfl⟩

/-- Settles O60: the fields of `State.reset`, and no handle given out yet (R36). -/
theorem resetValues : Obligations.ResetValues := by
  refine ⟨rfl, rfl, rfl, rfl, rfl, rfl, rfl, rfl, rfl, fun i => ?sets, rfl, rfl, rfl, rfl, rfl, rfl, rfl, rfl, rfl,
    rfl, rfl, rfl, rfl, rfl, rfl, rfl, rfl, rfl, rfl, fun h => ?handles⟩
  case sets => fin_cases i <;> exact ⟨rfl, rfl⟩
  case handles => simp [State.handle?, State.reset]

end Sys2Proof.Machine
end
